-- ==== Sys2Proof/Word.lean ====
section
/-! DEFINITION. The word types of the block: the data byte and the addresses (R6: WORD, PC_BITS, DATA_ADDR_BITS). -/

namespace Sys2Proof

/-- A byte of any memory cell or register (R6 WORD = 8). -/
abbrev Byte := BitVec 8

/-- A code address or pc value (R6 PC_BITS = 16, R30). -/
abbrev CodeAddr := BitVec 16

/-- A data address, the `d9` operand (R6 DATA_ADDR_BITS = 9, R72). -/
abbrev DataAddr := BitVec 9

/-- A flash address of LDF and STF (R75). -/
abbrev FlashAddr := BitVec 17

end Sys2Proof
end

