-- ==== Sys2Proof/Syntax.lean ====
section
/-! DEFINITION. The instructions: one constructor for each row of spec/opcode_table.json, with the operand forms of R103.
`a` is a `d9` data address or a code address, `j` the number of an indirect register, `v` an immediate byte, `n` a bit number
and `r` a relative offset as the bits the instruction holds. -/

namespace Sys2Proof

inductive Instr where
  /-- R180 `LD d9` -/
  | ldD9 (a : DataAddr)
  /-- R181 `LD @Rj` -/
  | ldInd (j : BitVec 2)
  /-- R182 `ST d9` -/
  | stD9 (a : DataAddr)
  /-- R183 `ST @Rj` -/
  | stInd (j : BitVec 2)
  /-- R184 `MOV #i8,d9` -/
  | movD9 (v : Byte) (a : DataAddr)
  /-- R185 `MOV #i8,@Rj` -/
  | movInd (v : Byte) (j : BitVec 2)
  /-- R186 `LDC` -/
  | ldc
  /-- R187 `PUSH d9` -/
  | push (a : DataAddr)
  /-- R188 `POP d9` -/
  | pop (a : DataAddr)
  /-- R189 `XCH d9` -/
  | xchD9 (a : DataAddr)
  /-- R190 `XCH @Rj` -/
  | xchInd (j : BitVec 2)
  /-- R203 `ADD #i8` -/
  | addImm (v : Byte)
  /-- R204 `ADD d9` -/
  | addD9 (a : DataAddr)
  /-- R205 `ADD @Rj` -/
  | addInd (j : BitVec 2)
  /-- R206 `ADDC #i8` -/
  | addcImm (v : Byte)
  /-- R207 `ADDC d9` -/
  | addcD9 (a : DataAddr)
  /-- R208 `ADDC @Rj` -/
  | addcInd (j : BitVec 2)
  /-- R209 `SUB #i8` -/
  | subImm (v : Byte)
  /-- R210 `SUB d9` -/
  | subD9 (a : DataAddr)
  /-- R211 `SUB @Rj` -/
  | subInd (j : BitVec 2)
  /-- R212 `SUBC #i8` -/
  | subcImm (v : Byte)
  /-- R213 `SUBC d9` -/
  | subcD9 (a : DataAddr)
  /-- R214 `SUBC @Rj` -/
  | subcInd (j : BitVec 2)
  /-- R215 `MUL` -/
  | mul
  /-- R216 `DIV` -/
  | div
  /-- R217 `INC d9` -/
  | incD9 (a : DataAddr)
  /-- R218 `INC @Rj` -/
  | incInd (j : BitVec 2)
  /-- R219 `DEC d9` -/
  | decD9 (a : DataAddr)
  /-- R220 `DEC @Rj` -/
  | decInd (j : BitVec 2)
  /-- R230 `AND #i8` -/
  | andImm (v : Byte)
  /-- R231 `AND d9` -/
  | andD9 (a : DataAddr)
  /-- R232 `AND @Rj` -/
  | andInd (j : BitVec 2)
  /-- R233 `OR #i8` -/
  | orImm (v : Byte)
  /-- R234 `OR d9` -/
  | orD9 (a : DataAddr)
  /-- R235 `OR @Rj` -/
  | orInd (j : BitVec 2)
  /-- R236 `XOR #i8` -/
  | xorImm (v : Byte)
  /-- R237 `XOR d9` -/
  | xorD9 (a : DataAddr)
  /-- R238 `XOR @Rj` -/
  | xorInd (j : BitVec 2)
  /-- R239 `ROL` -/
  | rol
  /-- R240 `ROLC` -/
  | rolc
  /-- R241 `ROR` -/
  | ror
  /-- R242 `RORC` -/
  | rorc
  /-- R250 `SET1 d9,b3` -/
  | set1 (a : DataAddr) (n : BitVec 3)
  /-- R251 `CLR1 d9,b3` -/
  | clr1 (a : DataAddr) (n : BitVec 3)
  /-- R252 `NOT1 d9,b3` -/
  | not1 (a : DataAddr) (n : BitVec 3)
  /-- R260 `JMP a12` -/
  | jmp (a : BitVec 12)
  /-- R261 `JMPF a16` -/
  | jmpf (a : CodeAddr)
  /-- R262 `BR r8` -/
  | br (r : Byte)
  /-- R263 `BRF r16` -/
  | brf (r : BitVec 16)
  /-- R264 `BZ r8` -/
  | bz (r : Byte)
  /-- R265 `BNZ r8` -/
  | bnz (r : Byte)
  /-- R266 `BP d9,b3,r8` -/
  | bp (a : DataAddr) (n : BitVec 3) (r : Byte)
  /-- R267 `BPC d9,b3,r8` -/
  | bpc (a : DataAddr) (n : BitVec 3) (r : Byte)
  /-- R268 `BN d9,b3,r8` -/
  | bn (a : DataAddr) (n : BitVec 3) (r : Byte)
  /-- R269 `DBNZ d9,r8` -/
  | dbnzD9 (a : DataAddr) (r : Byte)
  /-- R270 `DBNZ @Rj,r8` -/
  | dbnzInd (j : BitVec 2) (r : Byte)
  /-- R271 `BE #i8,r8` -/
  | beImm (v : Byte) (r : Byte)
  /-- R272 `BE d9,r8` -/
  | beD9 (a : DataAddr) (r : Byte)
  /-- R273 `BE @Rj,#i8,r8` -/
  | beInd (j : BitVec 2) (v : Byte) (r : Byte)
  /-- R274 `BNE #i8,r8` -/
  | bneImm (v : Byte) (r : Byte)
  /-- R275 `BNE d9,r8` -/
  | bneD9 (a : DataAddr) (r : Byte)
  /-- R276 `BNE @Rj,#i8,r8` -/
  | bneInd (j : BitVec 2) (v : Byte) (r : Byte)
  /-- R277 `CALL a12` -/
  | call (a : BitVec 12)
  /-- R278 `CALLF a16` -/
  | callf (a : CodeAddr)
  /-- R279 `CALLR r16` -/
  | callr (r : BitVec 16)
  /-- R280 `RET` -/
  | ret
  /-- R290 `RETI` -/
  | reti
  /-- R291 `NOP` -/
  | nop
  /-- R292 `LDF` -/
  | ldf
  /-- R293 `STF` -/
  | stf
  deriving DecidableEq, Repr

end Sys2Proof
end

