-- ==== Sys2Proof/Decode.lean ====
section
/-! DEFINITION. The decoder and the encoder (30_encoding.md). The decoder is the opcode table: one row for each instruction, with
the mask and pattern of its opcode byte (R112, R113), its length (R101) and how its operands are read (R102-R111). The encoder
is written from the same formats of R102, constructor by constructor. -/

namespace Sys2Proof

/-! ## Reading operand fields -/

/-- `@Rj`: j = op[1:0] (R106). -/
def rj (op : Byte) : BitVec 2 := op.extractLsb' 0 2

/-- `d9` in formats D, DI and DR: the address (op[0], b1) (R104). -/
def d9 (op b1 : Byte) : DataAddr := op.extractLsb' 0 1 ++ b1

/-- `d9` in formats B and BR: the address (op[4], b1) (R105). -/
def d9b (op b1 : Byte) : DataAddr := op.extractLsb' 4 1 ++ b1

/-- `b3`: the bit number op[2:0] (R105). -/
def b3 (op : Byte) : BitVec 3 := op.extractLsb' 0 3

/-- `a12`: op[4] is a11, op[2:0] are a10..a8 and b1 is a7..a0 (R107). -/
def a12 (op b1 : Byte) : BitVec 12 := op.extractLsb' 4 1 ++ op.extractLsb' 0 3 ++ b1

/-- `a16`: high byte first (R108). -/
def a16 (b1 b2 : Byte) : CodeAddr := b1 ++ b2

/-- `r16`: low byte first (R110). -/
def r16 (b1 b2 : Byte) : BitVec 16 := b2 ++ b1

/-! ## The decoder -/

/-- A row of the opcode table: an opcode byte belongs to it when its bits under `mask` are `pattern` (R114). `build` makes the
instruction from the opcode byte and the two operand bytes; a row of length 1 or 2 reads only the bytes it has. -/
structure OpcodeRow where
  mask : Byte
  pattern : Byte
  length : Nat
  build : Byte → Byte → Byte → Instr

/-- Data transfer (R180-R190): the rows of the opcode table, in its order. -/
def dataTransferRows : List OpcodeRow := [
  ⟨0xFE, 0x02, 2, fun op b1 _ => .ldD9 (d9 op b1)⟩,
  ⟨0xFC, 0x04, 1, fun op _ _ => .ldInd (rj op)⟩,
  ⟨0xFE, 0x12, 2, fun op b1 _ => .stD9 (d9 op b1)⟩,
  ⟨0xFC, 0x14, 1, fun op _ _ => .stInd (rj op)⟩,
  ⟨0xFE, 0x22, 3, fun op b1 b2 => .movD9 b2 (d9 op b1)⟩,
  ⟨0xFC, 0x24, 2, fun op b1 _ => .movInd b1 (rj op)⟩,
  ⟨0xFF, 0xC1, 1, fun _ _ _ => .ldc⟩,
  ⟨0xFE, 0x60, 2, fun op b1 _ => .push (d9 op b1)⟩,
  ⟨0xFE, 0x70, 2, fun op b1 _ => .pop (d9 op b1)⟩,
  ⟨0xFE, 0xC2, 2, fun op b1 _ => .xchD9 (d9 op b1)⟩,
  ⟨0xFC, 0xC4, 1, fun op _ _ => .xchInd (rj op)⟩]

/-- Arithmetic (R203-R220): the rows of the opcode table, in its order. -/
def arithmeticRows : List OpcodeRow := [
  ⟨0xFF, 0x81, 2, fun _ b1 _ => .addImm b1⟩,
  ⟨0xFE, 0x82, 2, fun op b1 _ => .addD9 (d9 op b1)⟩,
  ⟨0xFC, 0x84, 1, fun op _ _ => .addInd (rj op)⟩,
  ⟨0xFF, 0x91, 2, fun _ b1 _ => .addcImm b1⟩,
  ⟨0xFE, 0x92, 2, fun op b1 _ => .addcD9 (d9 op b1)⟩,
  ⟨0xFC, 0x94, 1, fun op _ _ => .addcInd (rj op)⟩,
  ⟨0xFF, 0xA1, 2, fun _ b1 _ => .subImm b1⟩,
  ⟨0xFE, 0xA2, 2, fun op b1 _ => .subD9 (d9 op b1)⟩,
  ⟨0xFC, 0xA4, 1, fun op _ _ => .subInd (rj op)⟩,
  ⟨0xFF, 0xB1, 2, fun _ b1 _ => .subcImm b1⟩,
  ⟨0xFE, 0xB2, 2, fun op b1 _ => .subcD9 (d9 op b1)⟩,
  ⟨0xFC, 0xB4, 1, fun op _ _ => .subcInd (rj op)⟩,
  ⟨0xFF, 0x30, 1, fun _ _ _ => .mul⟩,
  ⟨0xFF, 0x40, 1, fun _ _ _ => .div⟩,
  ⟨0xFE, 0x62, 2, fun op b1 _ => .incD9 (d9 op b1)⟩,
  ⟨0xFC, 0x64, 1, fun op _ _ => .incInd (rj op)⟩,
  ⟨0xFE, 0x72, 2, fun op b1 _ => .decD9 (d9 op b1)⟩,
  ⟨0xFC, 0x74, 1, fun op _ _ => .decInd (rj op)⟩]

/-- Logical and rotate (R230-R242): the rows of the opcode table, in its order. -/
def logicalRows : List OpcodeRow := [
  ⟨0xFF, 0xE1, 2, fun _ b1 _ => .andImm b1⟩,
  ⟨0xFE, 0xE2, 2, fun op b1 _ => .andD9 (d9 op b1)⟩,
  ⟨0xFC, 0xE4, 1, fun op _ _ => .andInd (rj op)⟩,
  ⟨0xFF, 0xD1, 2, fun _ b1 _ => .orImm b1⟩,
  ⟨0xFE, 0xD2, 2, fun op b1 _ => .orD9 (d9 op b1)⟩,
  ⟨0xFC, 0xD4, 1, fun op _ _ => .orInd (rj op)⟩,
  ⟨0xFF, 0xF1, 2, fun _ b1 _ => .xorImm b1⟩,
  ⟨0xFE, 0xF2, 2, fun op b1 _ => .xorD9 (d9 op b1)⟩,
  ⟨0xFC, 0xF4, 1, fun op _ _ => .xorInd (rj op)⟩,
  ⟨0xFF, 0xE0, 1, fun _ _ _ => .rol⟩,
  ⟨0xFF, 0xF0, 1, fun _ _ _ => .rolc⟩,
  ⟨0xFF, 0xC0, 1, fun _ _ _ => .ror⟩,
  ⟨0xFF, 0xD0, 1, fun _ _ _ => .rorc⟩]

/-- Bit manipulation (R250-R252): the rows of the opcode table, in its order. -/
def bitRows : List OpcodeRow := [
  ⟨0xE8, 0xE8, 2, fun op b1 _ => .set1 (d9b op b1) (b3 op)⟩,
  ⟨0xE8, 0xC8, 2, fun op b1 _ => .clr1 (d9b op b1) (b3 op)⟩,
  ⟨0xE8, 0xA8, 2, fun op b1 _ => .not1 (d9b op b1) (b3 op)⟩]

/-- Control transfer (R260-R280): the rows of the opcode table, in its order. -/
def controlRows : List OpcodeRow := [
  ⟨0xE8, 0x28, 2, fun op b1 _ => .jmp (a12 op b1)⟩,
  ⟨0xFF, 0x21, 3, fun _ b1 b2 => .jmpf (a16 b1 b2)⟩,
  ⟨0xFF, 0x01, 2, fun _ b1 _ => .br b1⟩,
  ⟨0xFF, 0x11, 3, fun _ b1 b2 => .brf (r16 b1 b2)⟩,
  ⟨0xFF, 0x80, 2, fun _ b1 _ => .bz b1⟩,
  ⟨0xFF, 0x90, 2, fun _ b1 _ => .bnz b1⟩,
  ⟨0xE8, 0x68, 3, fun op b1 b2 => .bp (d9b op b1) (b3 op) b2⟩,
  ⟨0xE8, 0x48, 3, fun op b1 b2 => .bpc (d9b op b1) (b3 op) b2⟩,
  ⟨0xE8, 0x88, 3, fun op b1 b2 => .bn (d9b op b1) (b3 op) b2⟩,
  ⟨0xFE, 0x52, 3, fun op b1 b2 => .dbnzD9 (d9 op b1) b2⟩,
  ⟨0xFC, 0x54, 2, fun op b1 _ => .dbnzInd (rj op) b1⟩,
  ⟨0xFF, 0x31, 3, fun _ b1 b2 => .beImm b1 b2⟩,
  ⟨0xFE, 0x32, 3, fun op b1 b2 => .beD9 (d9 op b1) b2⟩,
  ⟨0xFC, 0x34, 3, fun op b1 b2 => .beInd (rj op) b1 b2⟩,
  ⟨0xFF, 0x41, 3, fun _ b1 b2 => .bneImm b1 b2⟩,
  ⟨0xFE, 0x42, 3, fun op b1 b2 => .bneD9 (d9 op b1) b2⟩,
  ⟨0xFC, 0x44, 3, fun op b1 b2 => .bneInd (rj op) b1 b2⟩,
  ⟨0xE8, 0x08, 2, fun op b1 _ => .call (a12 op b1)⟩,
  ⟨0xFF, 0x20, 3, fun _ b1 b2 => .callf (a16 b1 b2)⟩,
  ⟨0xFF, 0x10, 3, fun _ b1 b2 => .callr (r16 b1 b2)⟩,
  ⟨0xFF, 0xA0, 1, fun _ _ _ => .ret⟩]

/-- System (R290-R293): the rows of the opcode table, in its order. -/
def systemRows : List OpcodeRow := [
  ⟨0xFF, 0xB0, 1, fun _ _ _ => .reti⟩,
  ⟨0xFF, 0x00, 1, fun _ _ _ => .nop⟩,
  ⟨0xFF, 0x50, 1, fun _ _ _ => .ldf⟩,
  ⟨0xFF, 0x51, 1, fun _ _ _ => .stf⟩]

/-- The opcode table (R112, R114). -/
def opcodeRows : List OpcodeRow :=
  dataTransferRows ++ arithmeticRows ++ logicalRows ++ bitRows ++ controlRows ++ systemRows

/-- The row an opcode byte belongs to (R114). -/
def decodeRow (op : Byte) : Option OpcodeRow := opcodeRows.find? fun r => op &&& r.mask == r.pattern

/-- Why a list of bytes is no instruction. -/
inductive DecodeError where
  /-- There is no byte at all. -/
  | noBytes
  /-- The bytes end before the operand bytes the opcode asks for. -/
  | truncated (op : Byte)
  /-- No row has this opcode. The table covers every byte (R115), so this is never answered. -/
  | unassigned (op : Byte)
  deriving DecidableEq, Repr

/-- Decode the instruction at the head of a list of bytes, and give the bytes after it (R100, R114). -/
def decode (bytes : List Byte) : Except DecodeError (Instr × List Byte) :=
  match bytes with
  | [] => .error .noBytes
  | op :: rest =>
    match decodeRow op with
    | none => .error (.unassigned op)
    | some row =>
      if rest.length + 1 < row.length then .error (.truncated op)
      else .ok (row.build op (rest.getD 0 0) (rest.getD 1 0), rest.drop (row.length - 1))

/-- Byte k of an instruction whose bits are numbered from the least significant bit of its first byte on. -/
def byteOf (w k : Nat) : Byte := BitVec.ofNat 8 (w / 2 ^ (8 * k))

/-- The longest instruction's bytes, from the bits w of an instruction that has nbits of them; the bits above are 0. -/
def tableBytes (nbits w : Nat) : List Byte :=
  let v := w % 2 ^ nbits
  [byteOf v 0, byteOf v 1, byteOf v 2]

/-- The instruction the decoder reads from the bits w of an opcode-table row of nbits. -/
def decodeTableWord (nbits w : Nat) : Option Instr :=
  match decode (tableBytes nbits w) with
  | .ok (i, _) => some i
  | .error _ => none

/-! ## The encoder -/

/-- j in op[1:0] (formats J, JI, JR, JIR). -/
def rjBits (j : BitVec 2) : Byte := j.setWidth 8

/-- d8 in op[0] (formats D, DI, DR). -/
def d8Bit (a : DataAddr) : Byte := (a.extractLsb' 8 1).setWidth 8

/-- d7..d0, the operand byte of a `d9`. -/
def d9Low (a : DataAddr) : Byte := a.extractLsb' 0 8

/-- d8 in op[4] and the bit number in op[2:0] (formats B, BR). -/
def bitBits (a : DataAddr) (n : BitVec 3) : Byte := (d8Bit a <<< 4) ||| n.setWidth 8

/-- a11 in op[4] and a10..a8 in op[2:0] (format A12). -/
def a12Bits (a : BitVec 12) : Byte := ((a.extractLsb' 11 1).setWidth 8 <<< 4) ||| (a.extractLsb' 8 3).setWidth 8

/-- a7..a0, the operand byte of an `a12`. -/
def a12Low (a : BitVec 12) : Byte := a.extractLsb' 0 8

/-- The high byte of a 16-bit quantity. -/
def high16 (a : BitVec 16) : Byte := a.extractLsb' 8 8

/-- The low byte of a 16-bit quantity. -/
def low16 (a : BitVec 16) : Byte := a.extractLsb' 0 8

/-- The bytes of an instruction, in the order of their code addresses (R102). -/
def encode : Instr → List Byte
  | .ldD9 a => [0x02 ||| d8Bit a, d9Low a]
  | .ldInd j => [0x04 ||| rjBits j]
  | .stD9 a => [0x12 ||| d8Bit a, d9Low a]
  | .stInd j => [0x14 ||| rjBits j]
  | .movD9 v a => [0x22 ||| d8Bit a, d9Low a, v]
  | .movInd v j => [0x24 ||| rjBits j, v]
  | .ldc => [0xC1]
  | .push a => [0x60 ||| d8Bit a, d9Low a]
  | .pop a => [0x70 ||| d8Bit a, d9Low a]
  | .xchD9 a => [0xC2 ||| d8Bit a, d9Low a]
  | .xchInd j => [0xC4 ||| rjBits j]
  | .addImm v => [0x81, v]
  | .addD9 a => [0x82 ||| d8Bit a, d9Low a]
  | .addInd j => [0x84 ||| rjBits j]
  | .addcImm v => [0x91, v]
  | .addcD9 a => [0x92 ||| d8Bit a, d9Low a]
  | .addcInd j => [0x94 ||| rjBits j]
  | .subImm v => [0xA1, v]
  | .subD9 a => [0xA2 ||| d8Bit a, d9Low a]
  | .subInd j => [0xA4 ||| rjBits j]
  | .subcImm v => [0xB1, v]
  | .subcD9 a => [0xB2 ||| d8Bit a, d9Low a]
  | .subcInd j => [0xB4 ||| rjBits j]
  | .mul => [0x30]
  | .div => [0x40]
  | .incD9 a => [0x62 ||| d8Bit a, d9Low a]
  | .incInd j => [0x64 ||| rjBits j]
  | .decD9 a => [0x72 ||| d8Bit a, d9Low a]
  | .decInd j => [0x74 ||| rjBits j]
  | .andImm v => [0xE1, v]
  | .andD9 a => [0xE2 ||| d8Bit a, d9Low a]
  | .andInd j => [0xE4 ||| rjBits j]
  | .orImm v => [0xD1, v]
  | .orD9 a => [0xD2 ||| d8Bit a, d9Low a]
  | .orInd j => [0xD4 ||| rjBits j]
  | .xorImm v => [0xF1, v]
  | .xorD9 a => [0xF2 ||| d8Bit a, d9Low a]
  | .xorInd j => [0xF4 ||| rjBits j]
  | .rol => [0xE0]
  | .rolc => [0xF0]
  | .ror => [0xC0]
  | .rorc => [0xD0]
  | .set1 a n => [0xE8 ||| bitBits a n, d9Low a]
  | .clr1 a n => [0xC8 ||| bitBits a n, d9Low a]
  | .not1 a n => [0xA8 ||| bitBits a n, d9Low a]
  | .jmp a => [0x28 ||| a12Bits a, a12Low a]
  | .jmpf a => [0x21, high16 a, low16 a]
  | .br r => [0x01, r]
  | .brf r => [0x11, low16 r, high16 r]
  | .bz r => [0x80, r]
  | .bnz r => [0x90, r]
  | .bp a n r => [0x68 ||| bitBits a n, d9Low a, r]
  | .bpc a n r => [0x48 ||| bitBits a n, d9Low a, r]
  | .bn a n r => [0x88 ||| bitBits a n, d9Low a, r]
  | .dbnzD9 a r => [0x52 ||| d8Bit a, d9Low a, r]
  | .dbnzInd j r => [0x54 ||| rjBits j, r]
  | .beImm v r => [0x31, v, r]
  | .beD9 a r => [0x32 ||| d8Bit a, d9Low a, r]
  | .beInd j v r => [0x34 ||| rjBits j, v, r]
  | .bneImm v r => [0x41, v, r]
  | .bneD9 a r => [0x42 ||| d8Bit a, d9Low a, r]
  | .bneInd j v r => [0x44 ||| rjBits j, v, r]
  | .call a => [0x08 ||| a12Bits a, a12Low a]
  | .callf a => [0x20, high16 a, low16 a]
  | .callr r => [0x10, low16 r, high16 r]
  | .ret => [0xA0]
  | .reti => [0xB0]
  | .nop => [0x00]
  | .ldf => [0x50]
  | .stf => [0x51]

/-- The opcode byte of an instruction. -/
def Instr.opcode (i : Instr) : Byte := (encode i).headD 0

/-! ## Targets (R118) -/

/-- The `a12` operand of a JMP or CALL at pc0 that goes to t, where one exists. -/
def a12For (pc0 t : CodeAddr) : Option (BitVec 12) :=
  if t.extractLsb' 12 4 = (pc0 + 2).extractLsb' 12 4 then some (t.extractLsb' 0 12) else none

/-- The `r8` operand of a branch of length len at pc0 that goes to t, where one exists: t - next must lie in -128..127, as an
offset modulo 2^16 (R8). -/
def r8For (len : Nat) (pc0 t : CodeAddr) : Option Byte :=
  let off := t - (pc0 + BitVec.ofNat 16 len)
  if -128 ≤ off.toInt ∧ off.toInt ≤ 127 then some (off.extractLsb' 0 8) else none

/-- The `r16` operand of a BRF or CALLR at pc0 that goes to t. -/
def r16For (pc0 t : CodeAddr) : BitVec 16 := t - (pc0 + 3) + 1

end Sys2Proof
end

