-- ==== Sys2Proof/Machine/Memory.lean ====
section
/-! DEFINITION. A memory region's contents: a list of (address, byte) pairs in one canonical form (addresses strictly rising, no
entry equal to what an unlisted address reads as), its two operations, and what a region holds when the host supplies it in part. -/

namespace Sys2Proof.Machine

/-- The contents of a region (R70). -/
abbrev Memory := List Host.Cell

/-- DESIGN CHOICE (log 1), unsafe: what an address that is not listed reads as. Every byte of RAM has a value at construction of its
own (`Memory.supplied`), so of the bytes the host does not supply this is the value of ROM's and Flash's alone. -/
def blank : Byte := 0

/-- The byte at an address. -/
def Memory.read : Memory → Nat → Byte
  | [], _ => blank
  | (k, v) :: m, a => if k = a then v else Memory.read m a

/-- Take an address's entry out. -/
def Memory.erase : Memory → Nat → Memory
  | [], _ => []
  | (k, v) :: m, a => if k = a then Memory.erase m a else (k, v) :: Memory.erase m a

/-- Put an entry in at its place. -/
def Memory.insert : Memory → Nat → Byte → Memory
  | [], a, v => [(a, v)]
  | (k, w) :: m, a, v =>
    if a < k then (a, v) :: (k, w) :: m
    else if a = k then (a, v) :: m
    else (k, w) :: Memory.insert m a v

/-- Store a byte. Storing what an unlisted address reads as takes the entry out. -/
def Memory.write (m : Memory) (a : Nat) (v : Byte) : Memory :=
  if v = blank then Memory.erase m a else Memory.insert m a v

/-- The byte the host supplies for an address, if it supplies one. -/
def Memory.lookup : Memory → Nat → Option Byte
  | [], _ => none
  | (k, v) :: m, a => if k = a then some v else Memory.lookup m a

/-- A region's first n bytes at construction: what the host supplies, and a draw for a byte it does not supply (R55). -/
def Memory.supplied (given : Memory) (draw : Nat → Byte) : Nat → Memory
  | 0 => []
  | n + 1 => Memory.write (Memory.supplied given draw n) n ((Memory.lookup given n).getD (draw n))

/-- The canonical form: addresses strictly rising, and no entry that an unlisted address would read as. -/
abbrev Memory.wf (m : Memory) : Prop := m.Pairwise (fun x y => x.1 < y.1) ∧ ∀ x ∈ m, x.2 ≠ blank

/-- Every listed address lies in a region of this size (R70). -/
abbrev Memory.within (size : Nat) (m : Memory) : Prop := ∀ x ∈ m, x.1 < size

end Sys2Proof.Machine
end

