-- ==== Sys2Proof/Machine/Parts.lean ====
section
/-! DEFINITION. The parts State is made of that are sets of names or small records: code banks, the run state, the
interrupt sources with their ranks and vectors, the latches, the block-owned cells of the data space, Timer 1's registers and
the output events. -/

namespace Sys2Proof.Machine

/-- A code bank: bank 0 is the ROM, bank 1 the Flash (R36, R71). -/
inductive Bank where
  | rom
  | flash
  deriving DecidableEq, Repr

/-- The bank that bit 0 of an EXT byte selects; bits 7..1 select nothing (R36, R46). -/
def Bank.ofExt (ext : Byte) : Bank := if ext.getLsbD 0 then .flash else .rom

/-- The run state, one-way from stopped to started (R37). -/
inductive RunState where
  | stopped
  | started
  deriving DecidableEq, Repr

/-- The eleven interrupt sources, in the order of R51 and R321. -/
inductive Source where
  | reset
  | int0
  | int1
  | int2
  | int3
  | t0
  | t1
  | sio0
  | sio1
  | rfb
  | p3
  deriving DecidableEq, Repr

/-- The rank of a source, 0 the highest priority; it equals the index (R321). -/
def Source.rank : Source → Nat
  | .reset => 0
  | .int0 => 1
  | .int1 => 2
  | .int2 => 3
  | .int3 => 4
  | .t0 => 5
  | .t1 => 6
  | .sio0 => 7
  | .sio1 => 8
  | .rfb => 9
  | .p3 => 10

/-- The service address of a source (R321). -/
def Source.vector : Source → CodeAddr
  | .reset => 0x0000
  | .int0 => 0x0003
  | .int1 => 0x000B
  | .int2 => 0x0013
  | .int3 => 0x001B
  | .t0 => 0x0023
  | .t1 => 0x002B
  | .sio0 => 0x0033
  | .sio1 => 0x003B
  | .rfb => 0x0043
  | .p3 => 0x004B

/-- The fixed order in which the poll scans the sources: index 0 first (R320). -/
def Source.scanOrder : List Source :=
  [.reset, .int0, .int1, .int2, .int3, .t0, .t1, .sio0, .sio1, .rfb, .p3]

/-- The eleven sticky one-bit latches `L[0..10]` of the interrupt controller (R51). -/
structure Latches where
  reset : Bool
  int0 : Bool
  int1 : Bool
  int2 : Bool
  int3 : Bool
  t0 : Bool
  t1 : Bool
  sio0 : Bool
  sio1 : Bool
  rfb : Bool
  p3 : Bool
  deriving DecidableEq, Repr

/-- Every latch 0 (R51, R55). -/
def Latches.none : Latches :=
  ⟨false, false, false, false, false, false, false, false, false, false, false⟩

/-- `get<s>()` of R310. -/
def Latches.get (l : Latches) : Source → Bool
  | .reset => l.reset
  | .int0 => l.int0
  | .int1 => l.int1
  | .int2 => l.int2
  | .int3 => l.int3
  | .t0 => l.t0
  | .t1 => l.t1
  | .sio0 => l.sio0
  | .sio1 => l.sio1
  | .rfb => l.rfb
  | .p3 => l.p3

/-- Latch s gets the value v; the two writes of R310 are its instances. -/
def Latches.put (l : Latches) (s : Source) (v : Bool) : Latches :=
  match s with
  | .reset => { l with reset := v }
  | .int0 => { l with int0 := v }
  | .int1 => { l with int1 := v }
  | .int2 => { l with int2 := v }
  | .int3 => { l with int3 := v }
  | .t0 => { l with t0 := v }
  | .t1 => { l with t1 := v }
  | .sio0 => { l with sio0 := v }
  | .sio1 => { l with sio1 := v }
  | .rfb => { l with rfb := v }
  | .p3 => { l with p3 := v }

/-- `set<s>()` of R310. -/
def Latches.set (l : Latches) (s : Source) : Latches := l.put s true

/-- `clear<s>()` of R310. -/
def Latches.clear (l : Latches) (s : Source) : Latches := l.put s false

/-- Set every latch of a list: what the environment does at one boundary (R312). -/
def Latches.setAll (l : Latches) (ss : List Source) : Latches := ss.foldl Latches.set l

/-- The block-owned cells of the data space (R40). `t1l` and `t1h` name the split addresses 0x11B and 0x11D (R48). -/
inductive Sfr where
  | acc
  | psw
  | b
  | c
  | trl
  | trh
  | sp
  | pcon
  | ie
  | ip
  | ext
  | t1cnt
  | t1lc
  | t1l
  | t1hc
  | t1h
  | fpr
  deriving DecidableEq, Repr

/-- The block-owned cell at a data address, if there is one (R40). -/
def Sfr.ofAddr (a : DataAddr) : Option Sfr :=
  match a.toNat with
  | 0x100 => some .acc
  | 0x101 => some .psw
  | 0x102 => some .b
  | 0x103 => some .c
  | 0x104 => some .trl
  | 0x105 => some .trh
  | 0x106 => some .sp
  | 0x107 => some .pcon
  | 0x108 => some .ie
  | 0x109 => some .ip
  | 0x10D => some .ext
  | 0x118 => some .t1cnt
  | 0x11A => some .t1lc
  | 0x11B => some .t1l
  | 0x11C => some .t1hc
  | 0x11D => some .t1h
  | 0x154 => some .fpr
  | _ => none

/-- What a data address names (R72): a RAM byte of the selected bank, a block-owned cell, or a device. -/
inductive DataCell where
  | ram (offset : Byte)
  | sfr (r : Sfr)
  | device
  deriving DecidableEq, Repr

/-- The map of the data space D (R72, R74). -/
def dataCell (a : DataAddr) : DataCell :=
  if a.getLsbD 8 then
    match Sfr.ofAddr a with
    | some r => .sfr r
    | none => .device
  else .ram (a.extractLsb' 0 8)

/-- Timer 1's registers and counters (R47, R48, R52). -/
structure Timer1 where
  /-- T1CNT, the control byte at 0x118 (R47). -/
  cnt : Byte
  /-- T1LR, the low reload latch: the write side of 0x11B (R48). -/
  lr : Byte
  /-- T1HR, the high reload latch: the write side of 0x11D (R48). -/
  hr : Byte
  /-- T1L, the low count mirror: the read side of 0x11B (R48). -/
  l : Byte
  /-- T1H, the high count mirror: the read side of 0x11D (R48). -/
  h : Byte
  /-- The low counter, in a wider integer (R52). -/
  lo : Nat
  /-- The high counter, in a wider integer (R52). -/
  hi : Nat
  /-- The enable-derived started bit of the low half (R52). -/
  loStarted : Bool
  /-- The running cycle counter, unbounded (R52, R341). -/
  cycles : Nat
  deriving DecidableEq, Repr

/-- An output event of the block, in the order it was issued (R14, R74, R82, R343). -/
inductive Event where
  /-- A semantic read of a device address, which the device may answer with a side effect of its own (R74, R82). -/
  | deviceRead (a : DataAddr)
  /-- A semantic write of a byte to a device address (R74). -/
  | deviceWrite (a : DataAddr) (v : Byte)
  /-- `Audio.setPeriod(value)` (R14, R343). -/
  | setPeriod (v : Byte)
  /-- `Audio.setEnabled(bool)` (R14, R343). -/
  | setEnabled (on : Bool)
  deriving DecidableEq, Repr

end Sys2Proof.Machine
end

