-- ==== Sys2Proof/Config.lean ====
section
/-! DEFINITION. The configuration: the parameters of 00_scope.md R6 the block is built with, and the constants nothing in Lean
can evaluate that stand for what the spec leaves open (OPEN parameters, draws). -/

namespace Sys2Proof

/-- The two meanings of PSW.P (R35): a stored bit, or the parity of ACC. -/
inductive PMode where
  | stored
  | parity
  deriving DecidableEq, Repr

/-- What an STF write does to the Flash byte (R293, U15): it becomes ACC, or the byte is one the spec does not give (log 10). -/
inductive FlashWriteModel where
  | plain
  | unspecified
  deriving DecidableEq, Repr

/-- Whether PCON.HALT suspends fetch (R360, U16): it does not, or it does until an interrupt is entered (log 10). -/
inductive HaltModel where
  | ignored
  | suspends
  deriving DecidableEq, Repr

/-- The parameters of R6 that differ between models of this block. They are fixed when the block is built, and every state
carries them (log 3). DEVICE_ADDRS is what `Machine.dataCell` calls a device. -/
structure Params where
  /-- ROM_SIZE, the bytes of the ROM region. -/
  romSize : Nat
  /-- FLASH_SIZE, the bytes of the Flash region. -/
  flashSize : Nat
  /-- CYCLES(op) less one, by opcode; an opcode past the end of the list has 0 here. So every total function from a byte to a
  count of at least 1 is one of these lists, and the empty list is CYCLES ≡ 1 (R147, R390, log 4). -/
  extraCycles : List Nat
  /-- ENTRY_TICKS, the ticks an interrupt entry consumes (R322, U24, log 9). -/
  entryTicks : Nat
  /-- ENTRY_SAVES_PSW (R322, R290). -/
  entrySavesPsw : Bool
  /-- P_MODE (R35). -/
  pMode : PMode
  /-- T1_CASCADE_LOW_RELOAD_ADDR (R344). -/
  cascadeLowReload : DataAddr
  /-- UNIMPLEMENTED, the opcodes processInstruction refuses (R115, R144). -/
  unimplemented : List Byte
  /-- FLASH_WRITE_MODEL (R293). -/
  flashWriteModel : FlashWriteModel
  /-- HALT_MODEL (R360). -/
  haltModel : HaltModel
  deriving DecidableEq, Repr

namespace Config

/-- The draws of R11: free byte number n. Nothing constrains it (log 7). -/
opaque freeByte : Nat → Byte

/-- The draws of R55: what byte n of RAM holds at construction when the host does not supply it (log 1). -/
opaque initialRam : Nat → Byte

/-- The OPEN parameter CYCLES of R6, less one, by opcode (log 4). -/
opaque extraCycles : List Nat

/-- The OPEN parameter T1_CASCADE_LOW_RELOAD_ADDR of R6 (log 5). -/
opaque cascadeLowReload : DataAddr

/-- The latch sets the environment makes after reset, one list of sources for each step boundary (R312, log 6). -/
opaque environment : List (List Machine.Source)

/-- The 64 bits of the double getFrequency returns before any setFrequency (U12, log 12). -/
opaque initialFrequency : BitVec 64

end Config

end Sys2Proof
end

