-- ==== Sys2Proof/Machine/Params.lean ====
section
/-! DEFINITION. The values 00_scope.md R6 gives its parameters, and what is read from them. -/

namespace Sys2Proof

/-- CYCLES(op), at least 1 and depending on the opcode alone (R147). -/
def Params.cycles (p : Params) (op : Byte) : Nat := 1 + p.extraCycles.getD op.toNat 0

/-- The table of R6: the value where one is given, a constant of Config where it says OPEN. -/
def Params.spec : Params where
  romSize := 0x10000
  flashSize := 0x20000
  extraCycles := Config.extraCycles
  entryTicks := 0
  entrySavesPsw := false
  pMode := .stored
  cascadeLowReload := Config.cascadeLowReload
  unimplemented := []
  flashWriteModel := .plain
  haltModel := .ignored

/-- The environment's sets after reset (R312, log 6). -/
def environmentAtReset : List (List Machine.Source) := Config.environment

end Sys2Proof
end

