-- ==== Sys2Proof/Machine/State.lean ====
section
/-! DEFINITION. The machine's state (10_state.md), its reset value (R55), and why a step can stop (R300, R301). -/

namespace Sys2Proof.Machine

/-- All the state of the block. -/
structure State where
  /-- The program counter: between instructions, the address of the next opcode (R30). -/
  pc : CodeAddr
  /-- The bank the current instruction is fetched from (R36). -/
  extOld : Bank
  /-- EXT[0] as sampled at the start of the current instruction (R36). -/
  extNew : Bank
  /-- The run state (R37). -/
  run : RunState
  /-- 0x100 ACC (R41). -/
  acc : Byte
  /-- 0x101 PSW (R33). -/
  psw : Byte
  /-- 0x102 B (R41). -/
  b : Byte
  /-- 0x103 C (R41). -/
  c : Byte
  /-- 0x104 TRL (R42). -/
  trl : Byte
  /-- 0x105 TRH (R42). -/
  trh : Byte
  /-- 0x106 SP (R43). -/
  sp : Byte
  /-- 0x107 PCON, stored only (R50, R360) but for HALT under a `HALT_MODEL` other than R6's (log 10). -/
  pcon : Byte
  /-- 0x108 IE; bit 7 is the interrupt mask state (R39, R45). -/
  ie : Byte
  /-- 0x109 IP, stored only (R50). -/
  ip : Byte
  /-- 0x10D EXT; bit 0 selects the code bank (R36, R46). -/
  ext : Byte
  /-- 0x11A T1LC, stored only (R50). -/
  t1lc : Byte
  /-- 0x11C T1HC, stored only (R50). -/
  t1hc : Byte
  /-- 0x154 FPR (R49). -/
  fpr : Byte
  /-- Timer 1: T1CNT, the split cells at 0x11B and 0x11D, and the counters (R47, R48, R52). -/
  t1 : Timer1
  /-- The in-service stack, top last (R38). -/
  inService : List Source
  /-- The interrupt latches (R51). -/
  latches : Latches
  /-- RAM: byte a of bank k at 256 k + a (R73). -/
  ram : Memory
  /-- ROM (R71). -/
  rom : Memory
  /-- Flash (R71, R75). -/
  flash : Memory
  /-- The clock metadata, the bits of a double; no rule reads it (R363, log 12). -/
  frequency : BitVec 64
  /-- The parameters the block was built with; no step changes them (R6, log 3). -/
  params : Params
  /-- The latch sets the environment will make at the coming step boundaries (R312, log 6). -/
  env : List (List Source)
  /-- How many free bytes have been drawn (R11, log 7). -/
  draws : Nat
  /-- The output events so far, in issue order (R14, R74, log 8). -/
  events : List Event
  deriving DecidableEq, Repr

/-- Timer 1 after reset (R55). -/
def Timer1.atReset : Timer1 where
  cnt := 0
  lr := 0
  hr := 0
  l := 0
  h := 0
  lo := 0
  hi := 0
  loStarted := false
  cycles := 0

/-- The machine right after reset/construct (R55, R370) with nothing supplied in its memory regions, so that every RAM byte is a draw
(R55, log 1, 2). -/
def State.reset : State where
  pc := 0x0000
  extOld := .rom
  extNew := .rom
  run := .stopped
  acc := 0
  psw := 0
  b := 0
  c := 0
  trl := 0
  trh := 0
  sp := 0
  pcon := 0
  ie := 0
  ip := 0
  ext := 0
  t1lc := 0
  t1hc := 0
  fpr := 0
  t1 := Timer1.atReset
  inService := []
  latches := Latches.none
  ram := Memory.supplied [] Config.initialRam 512
  rom := []
  flash := []
  frequency := Config.initialFrequency
  params := Params.spec
  env := environmentAtReset
  draws := 0
  events := []

/-- The space an out-of-range access named (R301). -/
inductive Space where
  /-- `CODE(bank)`. -/
  | code (bank : Bank)
  /-- `FL`. -/
  | flash
  deriving DecidableEq, Repr

/-- The faults of R301. Each ends the session (R302). -/
inductive Fault where
  /-- OUT_OF_RANGE: an access whose address is not present in its region. Raised by the opcode fetch, an operand fetch, LDC, LDF
  and STF (R79, R301). The spec's own fault, so neither safe nor unsafe: it is what the spec says happens. -/
  | outOfRange (space : Space) (address : Nat)
  /-- ILLEGAL_OPCODE: an opcode in UNIMPLEMENTED, with its address (R144, R301). Raised by the decode of the fetched opcode. The
  spec's own fault. -/
  | illegalOpcode (pc0 : CodeAddr) (op : Byte)
  deriving DecidableEq, Repr

/-- The code of a fault kind, the spec's label (R301). -/
def Fault.kind : Fault → Nat
  | .outOfRange .. => 1
  | .illegalOpcode .. => 2

/-- Why the model gives no outcome. -/
inductive Refusal where
  /-- Raised by exec for an instruction that has no meaning yet; no arm of this model raises it. Safe. -/
  | notModelled (mnemonic : String)
  /-- Raised by the fetch for an opcode no row of the opcode table has. The table covers all 256 bytes (R114, R115), so it is
  never raised. Safe. -/
  | unassignedOpcode (op : Byte)
  deriving DecidableEq, Repr

end Sys2Proof.Machine
end

