-- ==== Sys2Proof/Machine/Flags.lean ====
section
/-! DEFINITION. Single bits of a byte, the flag bits of PSW (R33, R155), and every flag computation of the ALU (R200, R201, R215,
R216, R239-R242, section 3 of 45_control.md). -/

namespace Sys2Proof.Machine

/-- A byte with bit n made x (R253: bit 0 is the least significant). -/
def putBit (v : Byte) (n : Nat) (x : Bool) : Byte :=
  if x then v ||| (1#8 <<< n) else v &&& ~~~(1#8 <<< n)

/-- The XOR of the eight bits of a byte (R35). -/
def parityOf (v : Byte) : Bool :=
  v.getLsbD 0 ^^ v.getLsbD 1 ^^ v.getLsbD 2 ^^ v.getLsbD 3 ^^ v.getLsbD 4 ^^ v.getLsbD 5 ^^ v.getLsbD 6 ^^ v.getLsbD 7

/-- The four flags (R32). -/
inductive Flag where
  | cy
  | ac
  | ov
  | p
  deriving DecidableEq, Repr

/-- The place of a flag in PSW (R33, R155). -/
def Flag.place : Flag → Nat
  | .cy => 7
  | .ac => 6
  | .ov => 2
  | .p => 0

/-- What an 8-bit addition or subtraction gives: the byte and the three flags. -/
structure AluResult where
  value : Byte
  cy : Bool
  ac : Bool
  ov : Bool
  deriving DecidableEq, Repr

/-- The carry bit as a number. -/
def carryNat (c : Bool) : Nat := if c then 1 else 0

/-- `ADD8(a, b, c)` of R200, on the exact sum. -/
def add8 (a b : Byte) (c : Bool) : AluResult :=
  let s : Nat := a.toNat + b.toNat + carryNat c
  let r : Byte := BitVec.ofNat 8 s
  { value := r
    cy := decide (0xFF < s)
    ac := decide (0x0F < a.toNat % 16 + b.toNat % 16 + carryNat c)
    ov := decide ((a ^^^ r) &&& (b ^^^ r) &&& 0x80 ≠ 0) }

/-- `SUB8(a, b, c)` of R201, on the exact difference. -/
def sub8 (a b : Byte) (c : Bool) : AluResult :=
  let d : Int := (a.toNat : Int) - b.toNat - carryNat c
  let r : Byte := BitVec.ofInt 8 d
  { value := r
    cy := decide (d < 0)
    ac := decide (((a.toNat % 16 : Nat) : Int) - (b.toNat % 16 : Nat) - carryNat c < 0)
    ov := decide ((a ^^^ b) &&& (a ^^^ r) &&& 0x80 ≠ 0) }

/-- The 24-bit product of R215. -/
def mulProduct (acc c b : Byte) : BitVec 24 := BitVec.ofNat 24 ((acc ++ c).toNat * b.toNat)

/-- OV of MUL: the product does not fit in 16 bits (R215). -/
def mulOverflow (p : BitVec 24) : Bool := decide (0xFFFF < p.toNat)

/-- The 16-bit quotient of R216. -/
def divQuotient (acc c b : Byte) : BitVec 16 := BitVec.ofNat 16 ((acc ++ c).toNat / b.toNat)

/-- The 8-bit remainder of R216. -/
def divRemainder (acc c b : Byte) : Byte := BitVec.ofNat 8 ((acc ++ c).toNat % b.toNat)

/-- ROL (R239). -/
def rolByte (a : Byte) : Byte := (a <<< 1) ||| (a >>> 7)

/-- ROR (R241). -/
def rorByte (a : Byte) : Byte := (a >>> 1) ||| (a <<< 7)

/-- The byte of ROLC; the new CY is a[7] (R240). -/
def rolcByte (a : Byte) (c : Bool) : Byte := (a <<< 1) ||| (BitVec.ofBool c).setWidth 8

/-- The byte of RORC; the new CY is a[0] (R242). -/
def rorcByte (a : Byte) (c : Bool) : Byte := (a >>> 1) ||| ((BitVec.ofBool c).setWidth 8 <<< 7)

/-- CY of BE and BNE: the left value is less than the right one, both unsigned (section 3 of 45_control.md). -/
def compareCarry (x y : Byte) : Bool := decide (x.toNat < y.toNat)

end Sys2Proof.Machine
end

