-- ==== Sys2Proof/Machine/Ops.lean ====
section
/-! DEFINITION. The named operations over registers and memory that the instructions are written with: the accesses of ACC and
PSW, the data space, the code and flash spaces, the stack, pc, and interrupt entry and return. -/

namespace Sys2Proof.Machine

/-! ## ACC, PSW and its flags -/

/-- PSW after ACC has become v: with `P_MODE = parity`, PSW.P is the parity of ACC; with `stored` nothing happens (R35, R156). -/
def State.accPsw (s : State) (v : Byte) : Byte :=
  match s.params.pMode with
  | .stored => s.psw
  | .parity => putBit s.psw 0 (parityOf v)

/-- PSW after a write of v to it: with `P_MODE = parity`, writes to bit 0 are discarded (R35, R156). -/
def State.writtenPsw (s : State) (v : Byte) : Byte :=
  match s.params.pMode with
  | .stored => v
  | .parity => putBit v 0 (s.psw.getLsbD 0)

/-- Write ACC. -/
def State.setAcc (s : State) (v : Byte) : State := { s with acc := v, psw := s.accPsw v }

/-- Write the PSW byte. -/
def State.setPsw (s : State) (v : Byte) : State := { s with psw := s.writtenPsw v }

/-- `getF(f)` of R155. -/
def State.getFlag (s : State) (f : Flag) : Bool := s.psw.getLsbD f.place

/-- `putF(f, x)` of R155; `setF` and `clrF` are its instances. -/
def State.putFlag (s : State) (f : Flag) (x : Bool) : State := s.setPsw (putBit s.psw f.place x)

/-- CY and OV in one PSW write (R155, R215, R216). -/
def State.putCyOv (s : State) (cy ov : Bool) : State :=
  s.setPsw (putBit (putBit s.psw Flag.cy.place cy) Flag.ov.place ov)

/-- CY, AC and OV in one PSW write (R155, section 2 of 42_arithmetic.md). -/
def State.putCyAcOv (s : State) (cy ac ov : Bool) : State :=
  s.setPsw (putBit (putBit (putBit s.psw Flag.cy.place cy) Flag.ac.place ac) Flag.ov.place ov)

/-! ## Draws -/

/-- Draw n free bytes (R11). -/
def State.draw (s : State) (n : Nat) : State := { s with draws := s.draws + n }

/-! ## RAM -/

/-- The RAM bank that PSW.RAMBK0 selects for data addresses below 0x100 (R73). -/
def State.ramBank (s : State) : Nat := if s.psw.getLsbD 1 then 1 else 0

/-- Where byte a of a RAM bank stands in the RAM region. -/
def ramKey (bank : Nat) (a : Byte) : Nat := 256 * bank + a.toNat

/-- `RAM[bank][a]` (R73). -/
def State.ramByte (s : State) (bank : Nat) (a : Byte) : Byte := Memory.read s.ram (ramKey bank a)

/-- Write `RAM[bank][a]` (R73). -/
def State.setRam (s : State) (bank : Nat) (a v : Byte) : State :=
  { s with ram := Memory.write s.ram (ramKey bank a) v }

/-! ## The block-owned cells -/

/-- The semantic read of a block-owned cell: at the split addresses, the count mirror (R48, R80). -/
def State.sfrByte (s : State) : Sfr → Byte
  | .acc => s.acc
  | .psw => s.psw
  | .b => s.b
  | .c => s.c
  | .trl => s.trl
  | .trh => s.trh
  | .sp => s.sp
  | .pcon => s.pcon
  | .ie => s.ie
  | .ip => s.ip
  | .ext => s.ext
  | .t1cnt => s.t1.cnt
  | .t1lc => s.t1lc
  | .t1l => s.t1.l
  | .t1hc => s.t1hc
  | .t1h => s.t1.h
  | .fpr => s.fpr

/-- The semantic write of a block-owned cell: at the split addresses, the reload latch (R48, R80). -/
def State.setSfr (s : State) (r : Sfr) (v : Byte) : State :=
  match r with
  | .acc => s.setAcc v
  | .psw => s.setPsw v
  | .b => { s with b := v }
  | .c => { s with c := v }
  | .trl => { s with trl := v }
  | .trh => { s with trh := v }
  | .sp => { s with sp := v }
  | .pcon => { s with pcon := v }
  | .ie => { s with ie := v }
  | .ip => { s with ip := v }
  | .ext => { s with ext := v }
  | .t1cnt => { s with t1 := { s.t1 with cnt := v } }
  | .t1lc => { s with t1lc := v }
  | .t1l => { s with t1 := { s.t1 with lr := v } }
  | .t1hc => { s with t1hc := v }
  | .t1h => { s with t1 := { s.t1 with hr := v } }
  | .fpr => { s with fpr := v }

/-! ## The data space D -/

/-- `MemRead(D, a, 1)`, the byte read: RAM of the selected bank (R73), a block-owned cell (R40), or a free byte from a device
(R74). -/
def State.dataByte (s : State) (a : DataAddr) : Byte :=
  match dataCell a with
  | .ram x => s.ramByte s.ramBank x
  | .sfr r => s.sfrByte r
  | .device => Config.freeByte s.draws

/-- The state after `MemRead(D, a, 1)`: a device read takes one draw and is recorded (R74, R82); no other read has an effect. -/
def State.afterRead (s : State) (a : DataAddr) : State :=
  match dataCell a with
  | .ram _ => s
  | .sfr _ => s
  | .device => { s with draws := s.draws + 1, events := s.events ++ [.deviceRead a] }

/-- `v <- MemRead(D, a, 1)`, and go on with the byte and the state after the read. -/
def State.load {α : Type} (s : State) (a : DataAddr) (k : Byte → State → α) : α := k (s.dataByte a) (s.afterRead a)

/-- `MemWrite(D, a, 1, v)`: RAM of the selected bank (R73), a block-owned cell (R40), or an output event to a device (R74). -/
def State.store (s : State) (a : DataAddr) (v : Byte) : State :=
  match dataCell a with
  | .ram x => s.setRam s.ramBank x v
  | .sfr r => s.setSfr r v
  | .device => { s with events := s.events ++ [.deviceWrite a v] }

/-- One read of a data byte and then one write of it, as a function of what was read (R81). -/
def State.modify (s : State) (a : DataAddr) (f : Byte → Byte) : State := s.load a fun v s => s.store a (f v)

/-- The raw read of a data address by the timer: at the split addresses it names the reload latch (R48, R80), at a device it is a
free byte (R344). RAM is read through the selected bank (DEDUCED, log 11). -/
def State.rawByte (s : State) (a : DataAddr) : Byte :=
  match dataCell a with
  | .ram x => s.ramByte s.ramBank x
  | .sfr .t1l => s.t1.lr
  | .sfr .t1h => s.t1.hr
  | .sfr r => s.sfrByte r
  | .device => Config.freeByte s.draws

/-! ## The code and flash spaces -/

/-- `MemRead(CODE(bank), a, 1)`, or nothing where the address is not present in the bank's region (R71, R79). -/
def State.codeByte (s : State) (bank : Bank) (a : CodeAddr) : Option Byte :=
  match bank with
  | .rom => if a.toNat < s.params.romSize then some (Memory.read s.rom a.toNat) else none
  | .flash => if a.toNat < s.params.flashSize then some (Memory.read s.flash a.toNat) else none

/-- The table reference TR (R42). -/
def State.tableRef (s : State) : CodeAddr := s.trh ++ s.trl

/-- The flash address of LDF and STF: FPR[0], TRH, TRL from the top (R75). -/
def State.flashAddr (s : State) : FlashAddr := s.fpr.extractLsb' 0 1 ++ s.trh ++ s.trl

/-- `MemRead(FL, fa, 1)`, or nothing where the address is not present (R75, R79). -/
def State.flashByte (s : State) (fa : FlashAddr) : Option Byte :=
  if fa.toNat < s.params.flashSize then some (Memory.read s.flash fa.toNat) else none

/-- `MemWrite(FL, fa, 1, v)`, or nothing where the address is not present (R75, R79). -/
def State.setFlash (s : State) (fa : FlashAddr) (v : Byte) : Option State :=
  if fa.toNat < s.params.flashSize then some { s with flash := Memory.write s.flash fa.toNat v } else none

/-- What a programmed Flash byte becomes: v with `FLASH_WRITE_MODEL = plain`, and a free byte with a model the spec does not describe
(R293, log 10). -/
def State.programmedByte (s : State) (v : Byte) : Byte :=
  match s.params.flashWriteModel with
  | .plain => v
  | .unspecified => Config.freeByte s.draws

/-- The draws a programmed Flash byte takes (log 10). -/
def State.programDraws (s : State) : Nat :=
  match s.params.flashWriteModel with
  | .plain => 0
  | .unspecified => 1

/-- Program a Flash byte with v as `FLASH_WRITE_MODEL` says, or nothing where the address is not present (R79, R293). -/
def State.programFlash (s : State) (fa : FlashAddr) (v : Byte) : Option State :=
  (s.draw s.programDraws).setFlash fa (s.programmedByte v)

/-! ## pc -/

/-- `next` of R12: the address after an instruction of this length, modulo 2^16 (R31). -/
def State.next (s : State) (len : Nat) : CodeAddr := s.pc + BitVec.ofNat 16 len

/-- `pc <- t`. -/
def State.jump (s : State) (t : CodeAddr) : State := { s with pc := t }

/-- `pc <- next`. -/
def State.advance (s : State) (len : Nat) : State := s.jump (s.next len)

/-- The target of a relative branch: next plus the signed offset, modulo 2^16 (R109, R262). -/
def State.relTarget (s : State) (len : Nat) (r : Byte) : CodeAddr := s.next len + r.signExtend 16

/-- The target of BRF and CALLR: next - 1 + u16, modulo 2^16 (R263, R279). -/
def State.relTarget16 (s : State) (len : Nat) (r : BitVec 16) : CodeAddr := s.next len - 1 + r

/-- `T_a12` of R149: the top four bits of next and the 12 bits of the operand (R107). -/
def State.blockTarget (s : State) (len : Nat) (a : BitVec 12) : CodeAddr := (s.next len).extractLsb' 12 4 ++ a

/-- Branch when the condition holds, and go on at next otherwise. -/
def State.branchIf (s : State) (cond : Bool) (len : Nat) (r : Byte) : State :=
  if cond then s.jump (s.relTarget len r) else s.advance len

/-! ## The stack -/

/-- `SP <- (SP + 1) mod 2^8`. -/
def State.incSp (s : State) : State := { s with sp := s.sp + 1 }

/-- `SP <- (SP - 1) mod 2^8`. -/
def State.decSp (s : State) : State := { s with sp := s.sp - 1 }

/-- `MemRead(STK, SP, 1)`: the stack is RAM bank 0 (R76). -/
def State.stackTop (s : State) : Byte := s.ramByte 0 s.sp

/-- `MemWrite(STK, SP, 1, v)` (R76). -/
def State.setStackTop (s : State) (v : Byte) : State := s.setRam 0 s.sp v

/-- `Push(v)` of R153. -/
def State.push (s : State) (v : Byte) : State := s.incSp.setStackTop v

/-- `Pop()` of R153, and go on with the byte and the state after it. -/
def State.pop {α : Type} (s : State) (k : Byte → State → α) : α := k s.stackTop s.decSp

/-- `PushPC(t)` of R154: the low byte first. -/
def State.pushPc (s : State) (t : CodeAddr) : State := (s.push (t.extractLsb' 0 8)).push (t.extractLsb' 8 8)

/-- `PopPC()` of R154: the high byte first. -/
def State.popPc {α : Type} (s : State) (k : CodeAddr → State → α) : α :=
  s.pop fun hi s => s.pop fun lo s => k (hi ++ lo) s

/-! ## Interrupt entry and return -/

/-- `set<Source>()` of the latch port (R15, R310). -/
def State.setLatch (s : State) (src : Source) : State := { s with latches := s.latches.set src }

/-- `clear<Source>()` of the latch port (R15, R310). -/
def State.clearLatch (s : State) (src : Source) : State := { s with latches := s.latches.clear src }

/-- `get<Source>()` of the latch port (R15, R310). -/
def State.getLatch (s : State) (src : Source) : Bool := s.latches.get src

/-- A source goes on top of the in-service stack (R38). -/
def State.pushService (s : State) (src : Source) : State := { s with inService := s.inService ++ [src] }

/-- The top of the in-service stack goes, if there is one (R38, R290). -/
def State.popService (s : State) : State := { s with inService := s.inService.dropLast }

/-- A source ranks strictly higher than the top of the in-service stack, or nothing is in service (R323). -/
def State.eligible (s : State) (src : Source) : Bool :=
  match s.inService.getLast? with
  | none => true
  | some top => decide (src.rank < top.rank)

/-- Push PSW when `ENTRY_SAVES_PSW` is true (R322, C1). -/
def State.pushPswIfSaved (s : State) : State := if s.params.entrySavesPsw then s.push s.psw else s

/-- `enter(s)` of R322: the latch is cleared, pc (and PSW by the parameter) is pushed, the source goes on the in-service stack
and pc becomes the vector. IE, EXT, the bank latches and run are not changed. -/
def State.enter (s : State) (src : Source) : State :=
  ((((s.clearLatch src).pushPc s.pc).pushPswIfSaved).pushService src).jump src.vector

/-- Pop PSW when `ENTRY_SAVES_PSW` is true (R290). -/
def State.popPswIfSaved (s : State) : State := if s.params.entrySavesPsw then s.pop fun v s => s.setPsw v else s

/-- The return from an interrupt (R290): PSW by the parameter, then pc, and the top of the in-service stack. With nothing in
service it acts as a return from a call. -/
def State.leave (s : State) : State :=
  s.popPswIfSaved.popPc fun t s => (s.jump t).popService

end Sys2Proof.Machine
end

