-- ==== Sys2Proof/Machine/Operands.lean ====
section
/-! DEFINITION. The operand forms of the instructions (R103, R149, R150). Immediates and offsets are in the instruction; a data
operand is at a `d9` address or at the address an indirect register gives. Resolving an address changes no state (R148). -/

namespace Sys2Proof.Machine

/-- The data address of the indirect register Rj: 4*PSW[4:3] + j (R44). -/
def State.pointerCell (s : State) (j : BitVec 2) : Byte :=
  BitVec.ofNat 8 (4 * (s.psw.extractLsb' 3 2).toNat + j.toNat)

/-- `EA_R(j)` of R149: the 9-bit pointer made of j[1] and the byte Rj, read through the RAM bank mapping (R44, R106). -/
def State.indirect (s : State) (j : BitVec 2) : DataAddr := j.extractLsb' 1 1 ++ s.ramByte s.ramBank (s.pointerCell j)

/-- The operand forms of the ALU and compare instructions. -/
inductive Operand where
  /-- `#i8` (R111). -/
  | imm (v : Byte)
  /-- `d9` (R104). -/
  | d9 (a : DataAddr)
  /-- `@Rj` (R106). -/
  | ind (j : BitVec 2)
  deriving DecidableEq, Repr

/-- The byte an operand gives. -/
def State.operandByte (s : State) : Operand → Byte
  | .imm v => v
  | .d9 a => s.dataByte a
  | .ind j => s.dataByte (s.indirect j)

/-- The state after an operand is read. -/
def State.afterOperand (s : State) : Operand → State
  | .imm _ => s
  | .d9 a => s.afterRead a
  | .ind j => s.afterRead (s.indirect j)

/-- Read an operand, and go on with the byte and the state after the read. -/
def State.loadOperand {α : Type} (s : State) (o : Operand) (k : Byte → State → α) : α :=
  k (s.operandByte o) (s.afterOperand o)

end Sys2Proof.Machine
end

