-- ==== Sys2Proof/Machine/DataTransfer.lean ====
section
/-! DEFINITION. The data transfer instructions (41_data_transfer.md). No instruction here writes a flag but through its operand. -/

namespace Sys2Proof.Machine

/-- The outcome of an instruction. -/
abbrev Result := Host.Outcome State Fault Refusal

/-- Load ACC from a data address (R180, R181). -/
def State.loadAcc (s : State) (a : DataAddr) (len : Nat) : State := s.load a fun v s => (s.setAcc v).advance len

/-- R180 `LD d9`. -/
def execLdD9 (a : DataAddr) (s : State) : Result := .next (s.loadAcc a 2)

/-- R181 `LD @Rj`. -/
def execLdInd (j : BitVec 2) (s : State) : Result := .next (s.loadAcc (s.indirect j) 1)

/-- R182 `ST d9`. -/
def execStD9 (a : DataAddr) (s : State) : Result := .next ((s.store a s.acc).advance 2)

/-- R183 `ST @Rj`. -/
def execStInd (j : BitVec 2) (s : State) : Result := .next ((s.store (s.indirect j) s.acc).advance 1)

/-- R184 `MOV #i8,d9`. -/
def execMovD9 (v : Byte) (a : DataAddr) (s : State) : Result := .next ((s.store a v).advance 3)

/-- R185 `MOV #i8,@Rj`. -/
def execMovInd (v : Byte) (j : BitVec 2) (s : State) : Result := .next ((s.store (s.indirect j) v).advance 2)

/-- The code address LDC reads: (TR + ACC) mod 2^16 (R186). -/
def State.tableAddr (s : State) : CodeAddr := s.tableRef + s.acc.setWidth 16

/-- R186 `LDC`: it reads the bank it was fetched from (R152). -/
def execLdc (s : State) : Result :=
  match s.codeByte s.extOld s.tableAddr with
  | some v => .next ((s.setAcc v).advance 1)
  | none => .fault (.outOfRange (.code s.extOld) s.tableAddr.toNat)

/-- R187 `PUSH d9`: SP is incremented before the operand is read. -/
def execPush (a : DataAddr) (s : State) : Result :=
  .next (s.incSp.load a fun v s => (s.setStackTop v).advance 2)

/-- R188 `POP d9`: the destination is written before SP is decremented. -/
def execPop (a : DataAddr) (s : State) : Result := .next ((s.store a s.stackTop).decSp.advance 2)

/-- Exchange ACC with a data byte (R189, R190). -/
def State.exchange (s : State) (a : DataAddr) (len : Nat) : State :=
  s.load a fun v s => ((s.store a s.acc).setAcc v).advance len

/-- R189 `XCH d9`. -/
def execXchD9 (a : DataAddr) (s : State) : Result := .next (s.exchange a 2)

/-- R190 `XCH @Rj`. -/
def execXchInd (j : BitVec 2) (s : State) : Result := .next (s.exchange (s.indirect j) 1)

end Sys2Proof.Machine
end

