-- ==== Sys2Proof/Machine/Arithmetic.lean ====
section
/-! DEFINITION. The arithmetic instructions (42_arithmetic.md). -/

namespace Sys2Proof.Machine

/-- Write an ALU result: ACC, then CY, AC and OV in one PSW write (section 2 of 42_arithmetic.md). -/
def State.putAlu (s : State) (r : AluResult) : State := (s.setAcc r.value).putCyAcOv r.cy r.ac r.ov

/-- The shape of the addition instructions: ACC plus an operand plus a carry, which is read before the instruction. -/
def State.addOperand (s : State) (o : Operand) (c : Bool) (len : Nat) : State :=
  s.loadOperand o fun v s => (s.putAlu (add8 s.acc v c)).advance len

/-- The shape of the subtraction instructions. -/
def State.subOperand (s : State) (o : Operand) (c : Bool) (len : Nat) : State :=
  s.loadOperand o fun v s => (s.putAlu (sub8 s.acc v c)).advance len

/-- R203 `ADD #i8`. -/
def execAddImm (v : Byte) (s : State) : Result := .next (s.addOperand (.imm v) false 2)

/-- R204 `ADD d9`. -/
def execAddD9 (a : DataAddr) (s : State) : Result := .next (s.addOperand (.d9 a) false 2)

/-- R205 `ADD @Rj`. -/
def execAddInd (j : BitVec 2) (s : State) : Result := .next (s.addOperand (.ind j) false 1)

/-- R206 `ADDC #i8`. -/
def execAddcImm (v : Byte) (s : State) : Result := .next (s.addOperand (.imm v) (s.getFlag .cy) 2)

/-- R207 `ADDC d9`. -/
def execAddcD9 (a : DataAddr) (s : State) : Result := .next (s.addOperand (.d9 a) (s.getFlag .cy) 2)

/-- R208 `ADDC @Rj`. -/
def execAddcInd (j : BitVec 2) (s : State) : Result := .next (s.addOperand (.ind j) (s.getFlag .cy) 1)

/-- R209 `SUB #i8`. -/
def execSubImm (v : Byte) (s : State) : Result := .next (s.subOperand (.imm v) false 2)

/-- R210 `SUB d9`. -/
def execSubD9 (a : DataAddr) (s : State) : Result := .next (s.subOperand (.d9 a) false 2)

/-- R211 `SUB @Rj`. -/
def execSubInd (j : BitVec 2) (s : State) : Result := .next (s.subOperand (.ind j) false 1)

/-- R212 `SUBC #i8`. -/
def execSubcImm (v : Byte) (s : State) : Result := .next (s.subOperand (.imm v) (s.getFlag .cy) 2)

/-- R213 `SUBC d9`. -/
def execSubcD9 (a : DataAddr) (s : State) : Result := .next (s.subOperand (.d9 a) (s.getFlag .cy) 2)

/-- R214 `SUBC @Rj`. -/
def execSubcInd (j : BitVec 2) (s : State) : Result := .next (s.subOperand (.ind j) (s.getFlag .cy) 1)

/-- Write B, ACC and C from a 24-bit product, then CY and OV (R215). -/
def State.putProduct (s : State) (p : BitVec 24) : State :=
  (((s.setSfr .b (p.extractLsb' 16 8)).setAcc (p.extractLsb' 8 8)).setSfr .c (p.extractLsb' 0 8)).putCyOv false (mulOverflow p)

/-- R215 `MUL`. -/
def execMul (s : State) : Result := .next ((s.putProduct (mulProduct s.acc s.c s.b)).advance 1)

/-- Write ACC, C and B in the order of R216. -/
def State.putDivision (s : State) (hi lo rem : Byte) : State :=
  ((s.setAcc hi).setSfr .c lo).setSfr .b rem

/-- The results of a division by zero: ACC, C and B are three free bytes (R216, log 7). -/
def State.drawDivision (s : State) : State :=
  (s.draw 3).putDivision (Config.freeByte s.draws) (Config.freeByte (s.draws + 1)) (Config.freeByte (s.draws + 2))

/-- R216 `DIV`. -/
def execDiv (s : State) : Result :=
  if s.b ≠ 0 then
    .next (((s.putDivision ((divQuotient s.acc s.c s.b).extractLsb' 8 8) ((divQuotient s.acc s.c s.b).extractLsb' 0 8)
      (divRemainder s.acc s.c s.b)).putCyOv false false).advance 1)
  else .next ((s.drawDivision.putCyOv false true).advance 1)

/-- R217 `INC d9`. -/
def execIncD9 (a : DataAddr) (s : State) : Result := .next ((s.modify a fun v => v + 1).advance 2)

/-- R218 `INC @Rj`. -/
def execIncInd (j : BitVec 2) (s : State) : Result := .next ((s.modify (s.indirect j) fun v => v + 1).advance 1)

/-- R219 `DEC d9`. -/
def execDecD9 (a : DataAddr) (s : State) : Result := .next ((s.modify a fun v => v - 1).advance 2)

/-- R220 `DEC @Rj`. -/
def execDecInd (j : BitVec 2) (s : State) : Result := .next ((s.modify (s.indirect j) fun v => v - 1).advance 1)

end Sys2Proof.Machine
end

