-- ==== Sys2Proof/Machine/Bit.lean ====
section
/-! DEFINITION. The bit manipulation instructions (44_bit.md): one read and one write of a data byte each. The write happens
whatever the bit was (R250). -/

namespace Sys2Proof.Machine

/-- The byte with bit n alone set: 1 << BIT (R253). -/
def bitMask (n : BitVec 3) : Byte := 1#8 <<< n.toNat

/-- R250 `SET1 d9,b3`. -/
def execSet1 (a : DataAddr) (n : BitVec 3) (s : State) : Result :=
  .next ((s.modify a fun v => v ||| bitMask n).advance 2)

/-- R251 `CLR1 d9,b3`. -/
def execClr1 (a : DataAddr) (n : BitVec 3) (s : State) : Result :=
  .next ((s.modify a fun v => v &&& ~~~(bitMask n)).advance 2)

/-- R252 `NOT1 d9,b3`. -/
def execNot1 (a : DataAddr) (n : BitVec 3) (s : State) : Result :=
  .next ((s.modify a fun v => v ^^^ bitMask n).advance 2)

end Sys2Proof.Machine
end

