-- ==== Sys2Proof/Machine/Control.lean ====
section
/-! DEFINITION. The control transfer instructions (45_control.md). -/

namespace Sys2Proof.Machine

/-- R260 `JMP a12`. -/
def execJmp (a : BitVec 12) (s : State) : Result := .next (s.jump (s.blockTarget 2 a))

/-- R261 `JMPF a16`: the target is fetched from the bank the latch gives the next instruction (R151). -/
def execJmpf (a : CodeAddr) (s : State) : Result := .next (s.jump a)

/-- R262 `BR r8`. -/
def execBr (r : Byte) (s : State) : Result := .next (s.jump (s.relTarget 2 r))

/-- R263 `BRF r16`. -/
def execBrf (r : BitVec 16) (s : State) : Result := .next (s.jump (s.relTarget16 3 r))

/-- R264 `BZ r8`. -/
def execBz (r : Byte) (s : State) : Result := .next (s.branchIf (s.acc == 0) 2 r)

/-- R265 `BNZ r8`. -/
def execBnz (r : Byte) (s : State) : Result := .next (s.branchIf (s.acc != 0) 2 r)

/-- R266 `BP d9,b3,r8`. -/
def execBp (a : DataAddr) (n : BitVec 3) (r : Byte) (s : State) : Result :=
  .next (s.load a fun v s => s.branchIf (v.getLsbD n.toNat) 3 r)

/-- R267 `BPC d9,b3,r8`: the byte is written only when the bit was 1. -/
def execBpc (a : DataAddr) (n : BitVec 3) (r : Byte) (s : State) : Result :=
  .next (s.load a fun v s =>
    if v.getLsbD n.toNat then (s.store a (v &&& ~~~(bitMask n))).jump (s.relTarget 3 r) else s.advance 3)

/-- R268 `BN d9,b3,r8`. -/
def execBn (a : DataAddr) (n : BitVec 3) (r : Byte) (s : State) : Result :=
  .next (s.load a fun v s => s.branchIf (!v.getLsbD n.toNat) 3 r)

/-- Decrement a data byte and branch if the result is not zero (R269, R270). -/
def State.decrementBranch (s : State) (a : DataAddr) (len : Nat) (r : Byte) : State :=
  s.load a fun v s => (s.store a (v - 1)).branchIf (v - 1 != 0) len r

/-- R269 `DBNZ d9,r8`. -/
def execDbnzD9 (a : DataAddr) (r : Byte) (s : State) : Result := .next (s.decrementBranch a 3 r)

/-- R270 `DBNZ @Rj,r8`. -/
def execDbnzInd (j : BitVec 2) (r : Byte) (s : State) : Result := .next (s.decrementBranch (s.indirect j) 2 r)

/-- The shape of BE: CY becomes x < y, and the branch is taken when x = y (section 3 of 45_control.md). -/
def State.branchEqual (s : State) (x y r : Byte) : State := (s.putFlag .cy (compareCarry x y)).branchIf (x == y) 3 r

/-- The shape of BNE: CY becomes x < y, and the branch is taken when x and y differ. -/
def State.branchNotEqual (s : State) (x y r : Byte) : State := (s.putFlag .cy (compareCarry x y)).branchIf (x != y) 3 r

/-- R271 `BE #i8,r8`. -/
def execBeImm (v : Byte) (r : Byte) (s : State) : Result := .next (s.branchEqual s.acc v r)

/-- R272 `BE d9,r8`. -/
def execBeD9 (a : DataAddr) (r : Byte) (s : State) : Result := .next (s.load a fun y s => s.branchEqual s.acc y r)

/-- R273 `BE @Rj,#i8,r8`. -/
def execBeInd (j : BitVec 2) (v : Byte) (r : Byte) (s : State) : Result :=
  .next (s.load (s.indirect j) fun x s => s.branchEqual x v r)

/-- R274 `BNE #i8,r8`. -/
def execBneImm (v : Byte) (r : Byte) (s : State) : Result := .next (s.branchNotEqual s.acc v r)

/-- R275 `BNE d9,r8`. -/
def execBneD9 (a : DataAddr) (r : Byte) (s : State) : Result := .next (s.load a fun y s => s.branchNotEqual s.acc y r)

/-- R276 `BNE @Rj,#i8,r8`. -/
def execBneInd (j : BitVec 2) (v : Byte) (r : Byte) (s : State) : Result :=
  .next (s.load (s.indirect j) fun x s => s.branchNotEqual x v r)

/-- R277 `CALL a12`. -/
def execCall (a : BitVec 12) (s : State) : Result := .next ((s.pushPc (s.next 2)).jump (s.blockTarget 2 a))

/-- R278 `CALLF a16`. -/
def execCallf (a : CodeAddr) (s : State) : Result := .next ((s.pushPc (s.next 3)).jump a)

/-- R279 `CALLR r16`: the pushed address is next, not next - 1. -/
def execCallr (r : BitVec 16) (s : State) : Result := .next ((s.pushPc (s.next 3)).jump (s.relTarget16 3 r))

/-- R280 `RET`: it does not touch the in-service stack. -/
def execRet (s : State) : Result := .next (s.popPc fun t s => s.jump t)

end Sys2Proof.Machine
end

