-- ==== Sys2Proof/Machine/Logical.lean ====
section
/-! DEFINITION. The logical and rotate instructions (43_logical.md). -/

namespace Sys2Proof.Machine

/-- The shape of the bitwise instructions: ACC combined with an operand; no flag is written (section 1 of 43_logical.md). -/
def State.logicOperand (s : State) (o : Operand) (f : Byte → Byte → Byte) (len : Nat) : State :=
  s.loadOperand o fun v s => (s.setAcc (f s.acc v)).advance len

/-- R230 `AND #i8`. -/
def execAndImm (v : Byte) (s : State) : Result := .next (s.logicOperand (.imm v) (fun x y => x &&& y) 2)

/-- R231 `AND d9`. -/
def execAndD9 (a : DataAddr) (s : State) : Result := .next (s.logicOperand (.d9 a) (fun x y => x &&& y) 2)

/-- R232 `AND @Rj`. -/
def execAndInd (j : BitVec 2) (s : State) : Result := .next (s.logicOperand (.ind j) (fun x y => x &&& y) 1)

/-- R233 `OR #i8`. -/
def execOrImm (v : Byte) (s : State) : Result := .next (s.logicOperand (.imm v) (fun x y => x ||| y) 2)

/-- R234 `OR d9`. -/
def execOrD9 (a : DataAddr) (s : State) : Result := .next (s.logicOperand (.d9 a) (fun x y => x ||| y) 2)

/-- R235 `OR @Rj`. -/
def execOrInd (j : BitVec 2) (s : State) : Result := .next (s.logicOperand (.ind j) (fun x y => x ||| y) 1)

/-- R236 `XOR #i8`. -/
def execXorImm (v : Byte) (s : State) : Result := .next (s.logicOperand (.imm v) (fun x y => x ^^^ y) 2)

/-- R237 `XOR d9`. -/
def execXorD9 (a : DataAddr) (s : State) : Result := .next (s.logicOperand (.d9 a) (fun x y => x ^^^ y) 2)

/-- R238 `XOR @Rj`. -/
def execXorInd (j : BitVec 2) (s : State) : Result := .next (s.logicOperand (.ind j) (fun x y => x ^^^ y) 1)

/-- R239 `ROL`. -/
def execRol (s : State) : Result := .next ((s.setAcc (rolByte s.acc)).advance 1)

/-- R240 `ROLC`. -/
def execRolc (s : State) : Result :=
  .next (((s.setAcc (rolcByte s.acc (s.getFlag .cy))).putFlag .cy (s.acc.getLsbD 7)).advance 1)

/-- R241 `ROR`. -/
def execRor (s : State) : Result := .next ((s.setAcc (rorByte s.acc)).advance 1)

/-- R242 `RORC`. -/
def execRorc (s : State) : Result :=
  .next (((s.setAcc (rorcByte s.acc (s.getFlag .cy))).putFlag .cy (s.acc.getLsbD 0)).advance 1)

end Sys2Proof.Machine
end

