-- ==== Sys2Proof/Machine/System.lean ====
section
/-! DEFINITION. The system instructions (46_system.md). -/

namespace Sys2Proof.Machine

/-- R290 `RETI`. -/
def execReti (s : State) : Result := .next s.leave

/-- R291 `NOP`. -/
def execNop (s : State) : Result := .next (s.advance 1)

/-- R292 `LDF`: it reads the Flash whichever bank code is fetched from. -/
def execLdf (s : State) : Result :=
  match s.flashByte s.flashAddr with
  | some v => .next ((s.setAcc v).advance 1)
  | none => .fault (.outOfRange .flash s.flashAddr.toNat)

/-- R293 `STF`, by `FLASH_WRITE_MODEL`. -/
def execStf (s : State) : Result :=
  match s.programFlash s.flashAddr s.acc with
  | some t => .next (t.advance 1)
  | none => .fault (.outOfRange .flash s.flashAddr.toNat)

end Sys2Proof.Machine
end

