-- ==== Sys2Proof/Machine/Dispatch.lean ====
section
/-! DEFINITION. The meaning of each instruction (R146): one arm for each row of the opcode table. -/

namespace Sys2Proof.Machine

/-- Run one instruction in the state its fetch left: pc is the address of its opcode (R12), and the bank latches are already
advanced (R140, R142). -/
def exec (i : Instr) (s : State) : Host.Outcome State Fault Refusal :=
  match i with
  | .ldD9 a => Sys2Proof.Machine.execLdD9 a s
  | .ldInd j => Sys2Proof.Machine.execLdInd j s
  | .stD9 a => Sys2Proof.Machine.execStD9 a s
  | .stInd j => Sys2Proof.Machine.execStInd j s
  | .movD9 v a => Sys2Proof.Machine.execMovD9 v a s
  | .movInd v j => Sys2Proof.Machine.execMovInd v j s
  | .ldc => Sys2Proof.Machine.execLdc s
  | .push a => Sys2Proof.Machine.execPush a s
  | .pop a => Sys2Proof.Machine.execPop a s
  | .xchD9 a => Sys2Proof.Machine.execXchD9 a s
  | .xchInd j => Sys2Proof.Machine.execXchInd j s
  | .addImm v => Sys2Proof.Machine.execAddImm v s
  | .addD9 a => Sys2Proof.Machine.execAddD9 a s
  | .addInd j => Sys2Proof.Machine.execAddInd j s
  | .addcImm v => Sys2Proof.Machine.execAddcImm v s
  | .addcD9 a => Sys2Proof.Machine.execAddcD9 a s
  | .addcInd j => Sys2Proof.Machine.execAddcInd j s
  | .subImm v => Sys2Proof.Machine.execSubImm v s
  | .subD9 a => Sys2Proof.Machine.execSubD9 a s
  | .subInd j => Sys2Proof.Machine.execSubInd j s
  | .subcImm v => Sys2Proof.Machine.execSubcImm v s
  | .subcD9 a => Sys2Proof.Machine.execSubcD9 a s
  | .subcInd j => Sys2Proof.Machine.execSubcInd j s
  | .mul => Sys2Proof.Machine.execMul s
  | .div => Sys2Proof.Machine.execDiv s
  | .incD9 a => Sys2Proof.Machine.execIncD9 a s
  | .incInd j => Sys2Proof.Machine.execIncInd j s
  | .decD9 a => Sys2Proof.Machine.execDecD9 a s
  | .decInd j => Sys2Proof.Machine.execDecInd j s
  | .andImm v => Sys2Proof.Machine.execAndImm v s
  | .andD9 a => Sys2Proof.Machine.execAndD9 a s
  | .andInd j => Sys2Proof.Machine.execAndInd j s
  | .orImm v => Sys2Proof.Machine.execOrImm v s
  | .orD9 a => Sys2Proof.Machine.execOrD9 a s
  | .orInd j => Sys2Proof.Machine.execOrInd j s
  | .xorImm v => Sys2Proof.Machine.execXorImm v s
  | .xorD9 a => Sys2Proof.Machine.execXorD9 a s
  | .xorInd j => Sys2Proof.Machine.execXorInd j s
  | .rol => Sys2Proof.Machine.execRol s
  | .rolc => Sys2Proof.Machine.execRolc s
  | .ror => Sys2Proof.Machine.execRor s
  | .rorc => Sys2Proof.Machine.execRorc s
  | .set1 a n => Sys2Proof.Machine.execSet1 a n s
  | .clr1 a n => Sys2Proof.Machine.execClr1 a n s
  | .not1 a n => Sys2Proof.Machine.execNot1 a n s
  | .jmp a => Sys2Proof.Machine.execJmp a s
  | .jmpf a => Sys2Proof.Machine.execJmpf a s
  | .br r => Sys2Proof.Machine.execBr r s
  | .brf r => Sys2Proof.Machine.execBrf r s
  | .bz r => Sys2Proof.Machine.execBz r s
  | .bnz r => Sys2Proof.Machine.execBnz r s
  | .bp a n r => Sys2Proof.Machine.execBp a n r s
  | .bpc a n r => Sys2Proof.Machine.execBpc a n r s
  | .bn a n r => Sys2Proof.Machine.execBn a n r s
  | .dbnzD9 a r => Sys2Proof.Machine.execDbnzD9 a r s
  | .dbnzInd j r => Sys2Proof.Machine.execDbnzInd j r s
  | .beImm v r => Sys2Proof.Machine.execBeImm v r s
  | .beD9 a r => Sys2Proof.Machine.execBeD9 a r s
  | .beInd j v r => Sys2Proof.Machine.execBeInd j v r s
  | .bneImm v r => Sys2Proof.Machine.execBneImm v r s
  | .bneD9 a r => Sys2Proof.Machine.execBneD9 a r s
  | .bneInd j v r => Sys2Proof.Machine.execBneInd j v r s
  | .call a => Sys2Proof.Machine.execCall a s
  | .callf a => Sys2Proof.Machine.execCallf a s
  | .callr r => Sys2Proof.Machine.execCallr r s
  | .ret => Sys2Proof.Machine.execRet s
  | .reti => Sys2Proof.Machine.execReti s
  | .nop => Sys2Proof.Machine.execNop s
  | .ldf => Sys2Proof.Machine.execLdf s
  | .stf => Sys2Proof.Machine.execStf s

end Sys2Proof.Machine
end

