-- ==== Sys2Proof/Machine/Interrupts.lean ====
section
/-! DEFINITION. The interrupt poll (R320), PCON.HALT (R360) and what the environment does at a step boundary (R312). -/

namespace Sys2Proof.Machine

/-- The pending source the poll would enter: the first in scan order that is latched and eligible (R320, R323). -/
def State.pending (s : State) : Option Source :=
  Source.scanOrder.find? fun src => s.getLatch src && s.eligible src

/-- The source the poll enters: none while IE7 is 0 (R320). -/
def State.taken (s : State) : Option Source := if s.ie.getLsbD 7 then s.pending else none

/-- `processInterrupts()` of R320: nothing while IE7 is 0; otherwise at most one entry. -/
def State.processInterrupts (s : State) : State :=
  match s.taken with
  | some src => s.enter src
  | none => s

/-- Fetch is suspended: with `HALT_MODEL = suspends`, PCON.HALT is 1 (R360, log 10). -/
def State.halted (s : State) : Bool :=
  match s.params.haltModel with
  | .ignored => false
  | .suspends => s.pcon.getLsbD 0

/-- PCON after an interrupt entry: with `HALT_MODEL = suspends` its HALT bit is cleared (R360, log 10). -/
def State.wokenPcon (s : State) : Byte :=
  match s.params.haltModel with
  | .ignored => s.pcon
  | .suspends => putBit s.pcon 0 false

/-- An interrupt ends a halt (R360, log 10). -/
def State.wake (s : State) : State := s.setSfr .pcon s.wokenPcon

/-- The boundary before a step: the environment sets the latches it will set there (R312, R376, log 6). -/
def State.boundary (s : State) : State :=
  { s with latches := s.latches.setAll (s.env.headD []), env := s.env.tail }

end Sys2Proof.Machine
end

