-- ==== Sys2Proof/Machine/Timer.lean ====
section
/-! DEFINITION. Timer 1: one tick (R340), and the ticks an instruction owes (R376). -/

namespace Sys2Proof.Machine

/-- T1LRUN, "low enabled" (R47). -/
def Timer1.lowEnabled (t : Timer1) : Bool := t.cnt.getLsbD 6

/-- T1HRUN, "high enabled" (R47). -/
def Timer1.highEnabled (t : Timer1) : Bool := t.cnt.getLsbD 7

/-- T1LONG, the 16-bit cascade mode (R47). -/
def Timer1.long (t : Timer1) : Bool := t.cnt.getLsbD 5

/-- What a tick works on: its copy `ctl` of T1CNT, the two counters, whether it raises the T1 latch and whether it reads the
cascade reload. -/
structure TickWork where
  ctl : Byte
  lo : Nat
  hi : Nat
  raise : Bool
  readsCascade : Bool
  deriving DecidableEq, Repr

/-- The low counter after step 2 of R340. -/
def Timer1.lowCount (t : Timer1) : Nat :=
  if t.lowEnabled then
    if t.loStarted then t.lo + (if t.long && !t.highEnabled then 2 else 1) else t.lr.toNat
  else t.lr.toNat

/-- This tick is a first enabled tick of the low half (step 2 of R340). -/
def Timer1.firstEnabled (t : Timer1) : Bool := t.lowEnabled && !t.loStarted

/-- The high counter after step 3 of R340. -/
def Timer1.highCount (t : Timer1) : Nat :=
  if t.highEnabled then (if t.long then t.hi else t.hi + 1) else t.hr.toNat

/-- The work as steps 1 to 3 of R340 leave it. -/
def Timer1.counted (t : Timer1) : TickWork where
  ctl := t.cnt
  lo := t.lowCount
  hi := t.highCount
  raise := false
  readsCascade := false

/-- Step 5, first condition: low overflow in 8-bit mode (R340, R346). -/
def Timer1.lowOverflow (t : Timer1) (w : TickWork) : TickWork :=
  if 255 < w.lo ∧ t.long = false then
    { w with ctl := putBit w.ctl 1 true, raise := w.raise || w.ctl.getLsbD 0, lo := t.lr.toNat }
  else w

/-- Step 5, second condition: low overflow in cascade mode. The reload is the byte of the other timer's register (R340, R344). -/
def Timer1.lowCascade (t : Timer1) (cascade : Byte) (w : TickWork) : TickWork :=
  if 255 < w.lo ∧ t.long = true then
    { w with hi := w.hi + 1, lo := cascade.toNat, readsCascade := true }
  else w

/-- Step 5, third condition: high overflow in 8-bit mode (R340, R346). -/
def Timer1.highOverflow (t : Timer1) (w : TickWork) : TickWork :=
  if 255 < w.hi ∧ t.long = false then
    { w with ctl := putBit w.ctl 3 true, raise := w.raise || w.ctl.getLsbD 2, hi := t.hr.toNat }
  else w

/-- Step 5, fourth condition: high overflow in cascade mode (R340, R344, R346). -/
def Timer1.highCascade (t : Timer1) (w : TickWork) : TickWork :=
  if 255 < w.hi ∧ t.long = true then
    { w with
      ctl := putBit (putBit w.ctl 1 true) 3 true
      raise := w.raise || w.ctl.getLsbD 2
      lo := t.lr.toNat
      hi := t.hr.toNat }
  else w

/-- The work after step 5: the four conditions in order, each on what the earlier ones left (R340). -/
def Timer1.resolved (t : Timer1) (cascade : Byte) : TickWork :=
  t.highCascade (t.highOverflow (t.lowCascade cascade (t.lowOverflow t.counted)))

/-- Step 6 of R340: T1CNT is written back, the mirrors get the counters, and the tick is counted. -/
def Timer1.written (t : Timer1) (w : TickWork) : Timer1 :=
  { t with
    cnt := w.ctl
    l := BitVec.ofNat 8 w.lo
    h := BitVec.ofNat 8 w.hi
    lo := w.lo
    hi := w.hi
    loStarted := t.lowEnabled
    cycles := t.cycles + 1 }

/-- The audio notifications of a tick, in order (R343). -/
def Timer1.audio (t : Timer1) : List Event :=
  (if t.firstEnabled then [.setPeriod t.lr] else []) ++ [.setEnabled (t.lowEnabled && !t.long)]

/-- The raw read of the cascade reload is a draw when its address is a device's (R344, log 7). -/
def State.cascadeIsDevice (s : State) : Bool := dataCell s.params.cascadeLowReload == .device

/-- `tick()` of R340. -/
def State.tick (s : State) : State :=
  let w := s.t1.resolved (s.rawByte s.params.cascadeLowReload)
  { s with
    t1 := s.t1.written w
    latches := if w.raise then s.latches.set .t1 else s.latches
    events := s.events ++ s.t1.audio
    draws := if w.readsCascade && s.cascadeIsDevice then s.draws + 1 else s.draws }

/-- n ticks, one after another. -/
def State.tickN : Nat → State → State
  | 0, s => s
  | n + 1, s => State.tickN n s.tick

/-- The ticks an instruction owes (R376). The fields a tick writes (R347) are taken from the ticked state and every other field
from s; `Laws.ticks_eq_tickN` proves that this is `tickN`. Written so, pc and the registers after the ticks can be
evaluated where CYCLES cannot. -/
def State.ticks (s : State) (n : Nat) : State :=
  { s with
    t1 := (State.tickN n s).t1
    latches := (State.tickN n s).latches
    events := (State.tickN n s).events
    draws := (State.tickN n s).draws }

end Sys2Proof.Machine
end

