-- ==== Sys2Proof/Machine/Cycle.lean ====
section
/-! DEFINITION. One call of processInstruction: the bank latch, the fetch, the decode and the execution (40_interpreter.md). -/

namespace Sys2Proof.Machine

/-- The start of an instruction: run becomes started (R141) and the bank latches advance (R142). -/
def State.begin (s : State) : State :=
  { s with run := .started, extOld := s.extNew, extNew := Bank.ofExt s.ext }

/-- A fetched instruction with its opcode byte. -/
structure Fetched where
  op : Byte
  instr : Instr
  deriving DecidableEq, Repr

/-- Fetch the byte k places after pc from the bank of the current instruction (R143, R145). -/
def State.fetchByte (s : State) (k : Nat) : Host.Outcome Byte Fault Refusal :=
  match s.codeByte s.extOld (s.next k) with
  | some v => .next v
  | none => .fault (.outOfRange (.code s.extOld) (s.next k).toNat)

/-- Fetch operand byte k of an instruction of this length; a byte the instruction does not have is not fetched (R145). -/
def State.fetchOperand (s : State) (length k : Nat) : Host.Outcome Byte Fault Refusal :=
  if k < length then s.fetchByte k else .next 0

/-- Fetch the operand bytes of a row, b1 and then b2, and build the instruction (R145). -/
def State.fetchOperands (s : State) (op : Byte) (row : OpcodeRow) : Host.Outcome Fetched Fault Refusal :=
  match s.fetchOperand row.length 1 with
  | .next b1 =>
    match s.fetchOperand row.length 2 with
    | .next b2 => .next ⟨op, row.build op b1 b2⟩
    | .fault f => .fault f
    | .refused r => .refused r
  | .fault f => .fault f
  | .refused r => .refused r

/-- Fetch and decode the instruction at pc. The order of the faults is that of R301: opcode fetch, illegal opcode, operand
fetch. -/
def State.fetch (s : State) : Host.Outcome Fetched Fault Refusal :=
  match s.fetchByte 0 with
  | .next op =>
    if s.params.unimplemented.contains op then .fault (.illegalOpcode s.pc op)
    else
      match decodeRow op with
      | some row => s.fetchOperands op row
      | none => .refused (.unassignedOpcode op)
  | .fault f => .fault f
  | .refused r => .refused r

/-- The status of processInstruction (R300): `ok n` says that n ticks are owed to the timer. -/
inductive Status where
  | ok (ticks : Nat)
  | fault (f : Fault)
  | refused (r : Refusal)
  deriving DecidableEq, Repr

/-- `processInstruction(debugFlag)` of R140: its status and the state it leaves. A fault leaves the state with the bank latches
advanced and run started, and nothing else written (R158). The debug flag has no effect (R363). -/
def State.processInstruction (s : State) (_debugFlag : Bool) : Status × State :=
  match s.begin.fetch with
  | .next f =>
    match exec f.instr s.begin with
    | .next t => (.ok (s.params.cycles f.op), t)
    | .fault e => (.fault e, s.begin)
    | .refused r => (.refused r, s.begin)
  | .fault e => (.fault e, s.begin)
  | .refused r => (.refused r, s.begin)

/-- The poll of a turn: what processInterrupts does, and where it enters a source, the end of a halt (log 10) and the ENTRY_TICKS ticks
the entry consumes (R322, R376, log 9). With the values of R6 it is processInterrupts. -/
def State.poll (s : State) : State :=
  match s.taken with
  | some src => ((s.enter src).wake).ticks s.params.entryTicks
  | none => s

/-- The rest of a step after an instruction that owes n ticks: the ticks and then one poll (R376). -/
def State.finish (s : State) (n : Nat) : State := (s.ticks n).poll

/-- A turn of the driving loop that runs an instruction (R376). A fault ends the session (R302). -/
def State.runTurn (s : State) : Host.Outcome State Fault Refusal :=
  match s.boundary.processInstruction false with
  | (.ok n, t) => .next (t.finish n)
  | (.fault f, _) => .fault f
  | (.refused r, _) => .refused r

/-- A turn while fetch is suspended: the boundary, one tick, one poll (R360, log 10). -/
def State.idleTurn (s : State) : State := s.boundary.finish 1

/-- One turn of the driving loop (R376): the boundary, one instruction, its ticks, one poll; no instruction while fetch is suspended
(R360). -/
def State.turn (s : State) : Host.Outcome State Fault Refusal := if s.halted then .next s.idleTurn else s.runTurn

/-- The region that a bank's code is fetched from, with a byte put at an address. -/
def State.withCodeByte (s : State) (bank : Bank) (a : CodeAddr) (v : Byte) : State :=
  match bank with
  | .rom => { s with rom := Memory.write s.rom a.toNat v }
  | .flash => { s with flash := Memory.write s.flash a.toNat v }

/-- Three bytes put where the next instruction is fetched: the bank its latch will select (R142), from pc on (R145). -/
def State.withCode (s : State) (b0 b1 b2 : Byte) : State :=
  ((s.withCodeByte s.extNew (s.next 0) b0).withCodeByte s.extNew (s.next 1) b1).withCodeByte s.extNew (s.next 2) b2

end Sys2Proof.Machine
end

