-- ==== Sys2Proof/Machine/Step.lean ====
section
/-! DEFINITION. One step of the machine, and where a step's instruction is put. -/

namespace Sys2Proof.Machine

/-- One step is one turn of the driving loop (R376). -/
def step (s : State) : Host.Outcome State Fault Refusal := s.turn

/-- s with the instruction whose bits are w (nbits of them, the bits above 0) stored where the next step fetches, and fetch not suspended
(log 2). -/
def State.withFetchWord (s : State) (nbits w : Nat) : State :=
  s.wake.withCode (byteOf (w % 2 ^ nbits) 0) (byteOf (w % 2 ^ nbits) 1) (byteOf (w % 2 ^ nbits) 2)

end Sys2Proof.Machine
end

