-- ==== Sys2Proof/Machine/HostPort.lean ====
section
/-! DEFINITION. The operations the host has beside the step (R16): construction, performHLE and the clock metadata. The latch port
(R15) is in Ops.lean. -/

namespace Sys2Proof.Machine

/-- Why construction makes no machine (R303). -/
inductive ConfigError where
  /-- CONFIG_ERROR: a reference to the RAM, the ROM, the Flash or the interrupt controller is missing (R303, R370). -/
  | missingReference
  deriving DecidableEq, Repr

/-- Every piece of block state at its reset value; the memory collaborators are not written (R370). The parameters, the clock
metadata and the model's own fields (env, draws, events) are no block state and stay (log 13). -/
def State.resetBlock (s : State) : State :=
  { State.reset with
    ram := s.ram
    rom := s.rom
    flash := s.flash
    frequency := s.frequency
    params := s.params
    env := s.env
    draws := s.draws
    events := s.events }

/-- `reset/construct(ram, rom, flash, interruptController, hleFlag)` of R370. The parameters are fixed here (R6, R70), hleFlag has no
effect (R372), and every latch of the controller becomes 0 (R370). Of RAM the host may supply some bytes: a byte it does not list is
the draw of its address (R55). -/
def construct (params : Params) (draw : Nat → Byte) (ram rom flash : Option Memory) (interruptController : Option Latches) (_hleFlag : Bool) :
    Except ConfigError State :=
  match ram, rom, flash, interruptController with
  | some ram, some rom, some flash, some _ =>
    .ok { State.reset with params := params, ram := Memory.supplied ram draw 512, rom := rom, flash := flash }
  | _, _, _, _ => .error .missingReference

/-- `performHLE(entryAddress)` of R373. -/
def State.performHle (s : State) (entryAddress : Nat) : State :=
  { s.resetBlock with pc := BitVec.ofNat 16 entryAddress }

/-- `getFrequency()` of R363. -/
def State.getFrequency (s : State) : BitVec 64 := s.frequency

/-- `setFrequency(double)` of R363. -/
def State.setFrequency (s : State) (f : BitVec 64) : State := { s with frequency := f }

end Sys2Proof.Machine
end

