-- ==== Sys2Proof/Safety.lean ====
section
/-! DEFINITION. What the statements about the machine are said in: how a state after a write differs from the state before it, the
invariants that every step keeps, and what a safe run is. -/

namespace Sys2Proof

/-- These bytes are this instruction's encoding: the encoder writes them, and the decoder reads the instruction from them, whatever
follows (R102, R114). -/
def Encodes (i : Instr) (bytes : List Byte) : Prop :=
  encode i = bytes ∧ ∀ rest, decode (bytes ++ rest) = .ok (i, rest)

/-- The opcode byte of formats D, DI and DR: d8 in op[0] (R102). -/
def opD (base : Byte) (a : DataAddr) : Byte := base ||| (a >>> 8).setWidth 8

/-- The opcode byte of formats B and BR: d8 in op[4] and the bit number in op[2:0] (R102). -/
def opB (base : Byte) (a : DataAddr) (n : BitVec 3) : Byte := base ||| ((a >>> 8).setWidth 8 <<< 4) ||| n.setWidth 8

/-- The opcode byte of format A12: a11 in op[4] and a10..a8 in op[2:0] (R102). -/
def opA12 (base : Byte) (a : BitVec 12) : Byte := base ||| ((a >>> 11).setWidth 8 <<< 4) ||| ((a >>> 8).setWidth 8 &&& 7)

/-- The opcode byte of formats J, JI, JR and JIR: j in op[1:0] (R102). -/
def opJ (base : Byte) (j : BitVec 2) : Byte := base ||| j.setWidth 8

/-- An instruction with the three operand forms `#i8`, `d9` and `@Rj` is encoded by formats I, D and J (R102). -/
def AluEncodings (imm : Byte → Instr) (direct : DataAddr → Instr) (indirect : BitVec 2 → Instr) (baseI baseD baseJ : Byte) : Prop :=
  (∀ v, Encodes (imm v) [baseI, v]) ∧
  (∀ a, Encodes (direct a) [opD baseD a, a.setWidth 8]) ∧
  (∀ j, Encodes (indirect j) [opJ baseJ j])

/-- The opcodes R101 lists for a length, as ranges of byte values. -/
def lengthList : Nat → List (Nat × Nat)
  | 1 => [(0x00, 0x00), (0x04, 0x07), (0x14, 0x17), (0x30, 0x30), (0x40, 0x40), (0x50, 0x50), (0x51, 0x51), (0x64, 0x67), (0x74, 0x77),
      (0x84, 0x87), (0x94, 0x97), (0xA0, 0xA0), (0xA4, 0xA7), (0xB0, 0xB0), (0xB4, 0xB7), (0xC0, 0xC0), (0xC1, 0xC1), (0xC4, 0xC7),
      (0xD0, 0xD0), (0xD4, 0xD7), (0xE0, 0xE0), (0xE4, 0xE7), (0xF0, 0xF0), (0xF4, 0xF7)]
  | 2 => [(0x01, 0x01), (0x02, 0x03), (0x08, 0x0F), (0x12, 0x13), (0x18, 0x1F), (0x24, 0x27), (0x28, 0x2F), (0x38, 0x3F), (0x54, 0x57),
      (0x60, 0x63), (0x70, 0x73), (0x80, 0x83), (0x90, 0x93), (0xA1, 0xA3), (0xA8, 0xAF), (0xB1, 0xB3), (0xB8, 0xBF), (0xC2, 0xC3),
      (0xC8, 0xCF), (0xD1, 0xD3), (0xD8, 0xDF), (0xE1, 0xE3), (0xE8, 0xEF), (0xF1, 0xF3), (0xF8, 0xFF)]
  | 3 => [(0x10, 0x10), (0x11, 0x11), (0x20, 0x20), (0x21, 0x21), (0x22, 0x23), (0x31, 0x31), (0x32, 0x33), (0x34, 0x37), (0x41, 0x41),
      (0x42, 0x43), (0x44, 0x47), (0x48, 0x4F), (0x52, 0x53), (0x58, 0x5F), (0x68, 0x6F), (0x78, 0x7F), (0x88, 0x8F), (0x98, 0x9F)]
  | _ => []

/-- An opcode byte stands in R101's list of a length. -/
def hasLength (op : Byte) (n : Nat) : Bool := (lengthList n).any fun r => decide (r.1 ≤ op.toNat) && decide (op.toNat ≤ r.2)

/-- The length of an instruction by its opcode byte (R101). -/
def specLength (op : Byte) : Nat := if hasLength op 1 then 1 else if hasLength op 3 then 3 else 2

namespace Machine

/-! ## What a write leaves -/

/-- A byte holds an odd number of ones (R35). -/
def oddOnes (v : Byte) : Bool := decide ((List.range 8).countP (fun k => v.getLsbD k) % 2 = 1)

/-- The bits of PSW outside a list of places are as before (R34). -/
def PswKept (s t : State) (written : List Nat) : Prop := ∀ k, k ∉ written → t.psw.getLsbD k = s.psw.getLsbD k

/-- PSW.P after an instruction that writes ACC: as before with `P_MODE = stored`, the parity of the new ACC with `parity` (R35,
R156). -/
def ParityFollows (s t : State) : Prop :=
  t.psw.getLsbD 0 = match s.params.pMode with
    | .stored => s.psw.getLsbD 0
    | .parity => oddOnes t.acc

/-- t is s with ACC made v: nothing else differs but PSW.P, as R35 says. -/
def AccWritten (s t : State) (v : Byte) : Prop :=
  t = { s with acc := v, psw := t.psw } ∧ PswKept s t [0] ∧ ParityFollows s t

/-- t is s with RAM[bank][x] made v: every other RAM byte reads as before and nothing else differs (R73). -/
def RamWritten (s t : State) (bank : Nat) (x v : Byte) : Prop :=
  (∀ k y, t.ramByte k y = if k = bank ∧ y = x then v else s.ramByte k y) ∧ t = { s with ram := t.ram }

/-- t is s after `MemWrite(D, a, 1, v)`: one byte of the selected RAM bank, one block-owned cell, or one output event, and nothing
else (R72, R73, R74). -/
def DataWritten (s t : State) (a : DataAddr) (v : Byte) : Prop :=
  match dataCell a with
  | .ram x => RamWritten s t s.ramBank x v
  | .sfr r => t = s.setSfr r v
  | .device => t = { s with events := s.events ++ [.deviceWrite a v] }

/-- t is s with the two bytes of a return address pushed, low byte first (R154), and SP two higher; every other RAM byte reads as
before and nothing else differs. -/
def PcPushed (s t : State) (ra : CodeAddr) : Prop :=
  (∀ k y, t.ramByte k y =
    if k = 0 ∧ y = s.sp + 2 then ra.extractLsb' 8 8
    else if k = 0 ∧ y = s.sp + 1 then ra.extractLsb' 0 8
    else s.ramByte k y) ∧
  t = { s with ram := t.ram, sp := s.sp + 2 }

/-- t is s after ACC <- ACC + v + c with the flags of R200: CY the carry out of bit 7, AC the carry out of bit 3, OV when both
operands have one sign and the result the other. Nothing else differs but PSW.P, as R35 says. -/
def Added (s t : State) (v : Byte) (c : Bool) : Prop :=
  t.acc.toNat = (s.acc.toNat + v.toNat + c.toNat) % 256 ∧
  t.psw.getLsbD 7 = decide (255 < s.acc.toNat + v.toNat + c.toNat) ∧
  t.psw.getLsbD 6 = decide (15 < s.acc.toNat % 16 + v.toNat % 16 + c.toNat) ∧
  t.psw.getLsbD 2 = (s.acc.msb == v.msb && t.acc.msb != s.acc.msb) ∧
  PswKept s t [7, 6, 2, 0] ∧ ParityFollows s t ∧
  t = { s with acc := t.acc, psw := t.psw }

/-- t is s after ACC <- ACC - v - c with the flags of R201: CY the borrow out of bit 7, AC the borrow out of bit 3, OV when the
operands differ in sign and the result's sign is not the left one's. Nothing else differs but PSW.P, as R35 says. -/
def Subtracted (s t : State) (v : Byte) (c : Bool) : Prop :=
  (t.acc.toNat : Int) = ((s.acc.toNat : Int) - v.toNat - c.toNat) % 256 ∧
  t.psw.getLsbD 7 = decide (s.acc.toNat < v.toNat + c.toNat) ∧
  t.psw.getLsbD 6 = decide (s.acc.toNat % 16 < v.toNat % 16 + c.toNat) ∧
  t.psw.getLsbD 2 = (s.acc.msb != v.msb && t.acc.msb != s.acc.msb) ∧
  PswKept s t [7, 6, 2, 0] ∧ ParityFollows s t ∧
  t = { s with acc := t.acc, psw := t.psw }

/-- t is s with CY made x and nothing else changed. -/
def CarryWritten (s t : State) (x : Bool) : Prop :=
  t.psw.getLsbD 7 = x ∧ PswKept s t [7] ∧ t = { s with psw := t.psw }

/-- An instruction with the three operand forms answers a next state on every state, with this effect on the state after the operand
is read and pc is moved past the instruction, and the operand's byte. -/
def AluForms (imm : Byte → Instr) (direct : DataAddr → Instr) (indirect : BitVec 2 → Instr)
    (effect : State → State → Byte → Prop) : Prop :=
  (∀ v s, ∃ t, exec (imm v) s = .next t ∧ effect { s with pc := s.pc + 2 } t v) ∧
  (∀ a s, ∃ t, exec (direct a) s = .next t ∧ effect { s.afterRead a with pc := s.pc + 2 } t (s.dataByte a)) ∧
  (∀ j s, ∃ t, exec (indirect j) s = .next t ∧
    effect { s.afterRead (s.indirect j) with pc := s.pc + 1 } t (s.dataByte (s.indirect j)))

/-- The target of a short relative branch of this length that stands at pc: (pc + length + s8(r)) mod 2^16 (R109, R262). -/
def shortTarget (pc : CodeAddr) (length : Nat) (r : Byte) : CodeAddr := BitVec.ofInt 16 (pc.toNat + length + r.toInt)

/-- The data addresses the block owns (R40); every other address from 0x100 on is a device's (R6, R74). -/
def ownedAddrs : List DataAddr :=
  [0x100, 0x101, 0x102, 0x103, 0x104, 0x105, 0x106, 0x107, 0x108, 0x109, 0x10D, 0x118, 0x11A, 0x11B, 0x11C, 0x11D, 0x154]

/-- A data address of a device (R6, R74). -/
abbrev DeviceAddr (a : DataAddr) : Prop := 0x100 ≤ a.toNat ∧ a ∉ ownedAddrs

/-! ## The interrupt poll -/

/-- The poll may enter a source: it is latched, and ranks strictly higher than the top of the in-service stack, or nothing is in
service (R320, R323). -/
def State.MayEnter (s : State) (src : Source) : Prop :=
  s.getLatch src = true ∧ (s.inService = [] ∨ ∃ top, s.inService.getLast? = some top ∧ src.rank < top.rank)

/-! ## The code regions -/

/-- The size of the region a bank's code is in (R71). -/
def State.codeSize (s : State) : Bank → Nat
  | .rom => s.params.romSize
  | .flash => s.params.flashSize

/-- From s, a call of processInstruction faults with f and leaves run started, the bank latches advanced and every other thing as it
was; and a step that is not suspended faults with f (R302, R376). -/
def State.FaultsWith (s : State) (f : Fault) : Prop :=
  (∀ debug, s.processInstruction debug =
    (.fault f, { s with run := .started, extOld := s.extNew, extNew := Bank.ofExt s.ext })) ∧
  (s.halted = false → step s = .fault f)

/-- A byte of the region a bank's code is in (R71). -/
def State.regionByte (s : State) (bank : Bank) (k : Nat) : Byte :=
  match bank with
  | .rom => Memory.read s.rom k
  | .flash => Memory.read s.flash k

/-! ## Invariants and safe runs -/

/-- The memory regions are in canonical form, and every listed byte lies in its region (R70). -/
def State.MemoryCanonical (s : State) : Prop :=
  (Memory.wf s.ram ∧ Memory.within 512 s.ram) ∧
  (Memory.wf s.rom ∧ Memory.within s.params.romSize s.rom) ∧
  (Memory.wf s.flash ∧ Memory.within s.params.flashSize s.flash)

/-- The mirrors T1L and T1H hold the counters exactly, so the counters are at most 255 (R345). -/
def State.TimerMirrored (s : State) : Prop := s.t1.lo = s.t1.l.toNat ∧ s.t1.hi = s.t1.h.toNat

/-- Every source in service ranks strictly higher than the one it interrupted (R323, R38). -/
def State.NestedByRank (s : State) : Prop := s.inService.Pairwise fun below above => above.rank < below.rank

/-- With `P_MODE = parity`, PSW.P is the XOR of the bits of ACC: 1 when ACC holds an odd number of ones (R35). -/
def State.ParityHolds (s : State) : Prop := s.params.pMode = .parity → s.psw.getLsbD 0 = oddOnes s.acc

/-- A run of n steps that no fault and no refusal ends (R302). -/
def RunsSafely (n : Nat) (s : State) : Prop := ∃ t, core.run n s = .next t

end Machine

end Sys2Proof
end

