-- ==== Sys2Proof/WellFormed.lean ====
section
/-! DEFINITION. Well-formed instructions. The width of every operand is in its type, and every value of these widths is a legal
operand (R115), so the one check left is the parameter UNIMPLEMENTED: an instruction is well formed for a machine when its
opcode is not one that machine refuses (R115, R144). -/

namespace Sys2Proof

/-- The machine built with this list of unimplemented opcodes has this instruction (R115). -/
def Instr.wellFormed (unimplemented : List Byte) (i : Instr) : Bool := !unimplemented.contains i.opcode

end Sys2Proof
end

