-- ==== Sys2Proof/Certificates/Slice0/Obligations.lean ====
section
/-! DEFINITION. The statements for the provers. Where an operand can be at a device address, `dataByte`, `afterRead` and
`DataWritten` say what R74 says in the model's form: a free byte (log 7) and recorded events (log 8); DataSpaceReads and
DataSpaceWrites state that form. -/

open Sys2Proof Sys2Proof.Machine

/-! ## Encoding -/

/-- R100, R102, R114: decoding what the encoder writes gives the instruction back, with every operand at every value, and leaves the
bytes after it. -/
def Obligations.DecodeInvertsEncode : Prop :=
  ∀ (i : Instr) (rest : List Byte), decode (encode i ++ rest) = .ok (i, rest)

/-- R102, R114: what the decoder reads is what the encoder writes, so every sequence of bytes that decodes has one meaning and no
operand bit is dropped. -/
def Obligations.EncodeInvertsDecode : Prop :=
  ∀ (bytes rest : List Byte) (i : Instr), decode bytes = .ok (i, rest) → encode i ++ rest = bytes

/-- R101, R114 (which the spec derives from R112 and R113) and R115: exactly one row of the table has an opcode byte; the byte stands in
exactly one of the three lists of R101, which is the instruction's length; and the byte followed by any operand bytes is an
instruction. -/
def Obligations.OpcodeFixesLength : Prop :=
  ∀ (op b1 b2 : Byte) (rest : List Byte),
    (opcodeRows.filter fun row => op &&& row.mask == row.pattern).length = 1 ∧
    ([1, 2, 3].filter fun n => hasLength op n) = [specLength op] ∧
    ∃ i, decode (op :: b1 :: b2 :: rest) = .ok (i, (b1 :: b2 :: rest).drop (specLength op - 1)) ∧
      (encode i).length = specLength op

/-- 95_test_vectors.md V-EN: the words of the spec's own decoding table. -/
def Obligations.SpecWordsDecode : Prop :=
  decode [0x03, 0x1B] = .ok (.ldD9 0x11B, []) ∧
  decode [0x07] = .ok (.ldInd 3, []) ∧
  decode [0x23, 0x06, 0x7F] = .ok (.movD9 0x7F 0x106, []) ∧
  decode [0x27, 0x99] = .ok (.movInd 0x99 3, []) ∧
  decode [0x28, 0x00] = .ok (.jmp 0x000, []) ∧
  decode [0x3F, 0xFF] = .ok (.jmp 0xFFF, []) ∧
  decode [0xFF, 0x08] = .ok (.set1 0x108 7, []) ∧
  decode [0xD9, 0x18] = .ok (.clr1 0x118 1, []) ∧
  decode [0x59, 0x18, 0x05] = .ok (.bpc 0x118 1 5, []) ∧
  decode [0x10, 0x05, 0x00] = .ok (.callr 0x0005, []) ∧
  decode [0x20, 0x12, 0x34] = .ok (.callf 0x1234, []) ∧
  decode [0xC1] = .ok (.ldc, []) ∧
  decode [0x50] = .ok (.ldf, []) ∧
  decode [0x51] = .ok (.stf, [])

/-- R118, which the spec derives from R107, R109 and R110: the operands that the target encoders give are those of R118, exist
exactly where R118 says (the range of r8 modulo 2^16: the model's reading by R8, log 16), and take a jump, a call or a branch that
stands at pc to its target. -/
def Obligations.AssembledTargetsAreReached : Prop :=
  ∀ (s : State) (t : CodeAddr),
    ((a12For s.pc t).isSome ↔ t.toNat / 4096 = (s.pc + 2).toNat / 4096) ∧
    (∀ a, a12For s.pc t = some a →
      Encodes (.jmp a) [opA12 0x28 (t.setWidth 12), t.setWidth 8] ∧
      Encodes (.call a) [opA12 0x08 (t.setWidth 12), t.setWidth 8] ∧
      exec (.jmp a) s = .next { s with pc := t } ∧
      ∃ u, exec (.call a) s = .next u ∧ u.pc = t) ∧
    (∀ n, (r8For n s.pc t).isSome ↔ ∃ d : Int, -128 ≤ d ∧ d ≤ 127 ∧ ((s.pc.toNat : Int) + n + d - t.toNat) % 65536 = 0) ∧
    (∀ n r, r8For n s.pc t = some r → shortTarget s.pc n r = t) ∧
    (∀ r, r8For 2 s.pc t = some r → exec (.br r) s = .next { s with pc := t }) ∧
    exec (.brf (r16For s.pc t)) s = .next { s with pc := t } ∧
    ∃ u, exec (.callr (r16For s.pc t)) s = .next u ∧ u.pc = t

/-! ## One step -/

/-- R140, R142, R146, R147, R376: when the bytes at pc, in the bank that becomes extOld, are an instruction i of this machine and fetch is
not suspended, a step is exec of i on the state at the start of the instruction (the boundary's latches set, run started, the bank
latches advanced), then CYCLES of the opcode ticks, then one poll; a fault or a refusal of exec is the step's. That the boundary's
sets are the head of `env` is the model's form (log 6), and CYCLES a table of the parameters (log 4). With R6's HALT_MODEL fetch is
never suspended and the poll is processInterrupts: EntryTicksAndHalt (logs 9, 10). -/
def Obligations.StepRunsDecodedInstruction : Prop :=
  ∀ (s : State) (i : Instr) (bytes : List Byte),
    decode bytes = .ok (i, []) →
    i.wellFormed s.params.unimplemented = true →
    (∀ k, k < bytes.length → s.codeByte s.extNew (s.pc + BitVec.ofNat 16 k) = bytes[k]?) →
    s.halted = false →
    step s =
      match exec i { s with
        latches := s.latches.setAll (s.env.headD [])
        env := s.env.tail
        run := .started
        extOld := s.extNew
        extNew := Bank.ofExt s.ext } with
      | .next t => .next (State.tickN (s.params.cycles i.opcode) t).poll
      | .fault f => .fault f
      | .refused r => .refused r

/-- R143, R144, R145, R301, R302, R376: a byte of the instruction that its region does not have faults with the region and the address,
an opcode of UNIMPLEMENTED faults with pc0 and the opcode, in the order of R301; the call leaves pc and every other thing but run
and the bank latches as they were; and a step that fetches answers the fault. That the bank latches have advanced also at an
ILLEGAL_OPCODE fault is the model's reading of R158 and R302 over R144's 'no other state changes' (log 14, DEDUCED). -/
def Obligations.FetchFaults : Prop :=
  ∀ s : State,
    (s.codeSize s.extNew ≤ s.pc.toNat → s.FaultsWith (.outOfRange (.code s.extNew) s.pc.toNat)) ∧
    ∀ op, s.pc.toNat < s.codeSize s.extNew → s.regionByte s.extNew s.pc.toNat = op →
      (op ∈ s.params.unimplemented → s.FaultsWith (.illegalOpcode s.pc op)) ∧
      (op ∉ s.params.unimplemented → 2 ≤ specLength op → s.codeSize s.extNew ≤ (s.pc + 1).toNat →
        s.FaultsWith (.outOfRange (.code s.extNew) (s.pc + 1).toNat)) ∧
      (op ∉ s.params.unimplemented → specLength op = 3 → (s.pc + 1).toNat < s.codeSize s.extNew →
        s.codeSize s.extNew ≤ (s.pc + 2).toNat → s.FaultsWith (.outOfRange (.code s.extNew) (s.pc + 2).toNat))

/-- R158, which the spec derives from R143, R145 and R79, and R302, R376: a fault comes from the fetch, from LDC, or from LDF or STF, and
the call has written only run and the bank latches (log 14); and a step that fetches faults exactly when the call does, with the
same fault. -/
def Obligations.FaultLeavesNoPartialResult : Prop :=
  (∀ (s t : State) (debug : Bool) (f : Fault), s.processInstruction debug = (.fault f, t) →
    t = { s with run := .started, extOld := s.extNew, extNew := Bank.ofExt s.ext } ∧
    (t.fetch = .fault f ∨ ∃ op i, t.fetch = .next ⟨op, i⟩ ∧ (i = .ldc ∨ i = .ldf ∨ i = .stf) ∧ exec i t = .fault f)) ∧
  ∀ (s : State) (f : Fault), s.halted = false →
    (step s = .fault f ↔ ∃ t, s.processInstruction false = (.fault f, t))

/-- R114, R115, R300: exec and a step answer a next state or a fault of R301, never a refusal. -/
def Obligations.NothingIsRefused : Prop :=
  (∀ (i : Instr) (s : State) (r : Refusal), exec i s ≠ .refused r) ∧
  ∀ (s : State) (r : Refusal), step s ≠ .refused r

/-- R141, R142, R54 and R312: after a step that fetches, run is started, extOld is the old extNew, and extNew is bit 0 of the EXT byte as
it was before the instruction; a step that waits leaves the three alone (log 10). After every step ROM, the parameters and the
clock metadata are as before. That one boundary of the environment is used up is the model's form (log 6), and so is that the
parameters are a field (log 3). -/
def Obligations.StepAdvancesBankLatch : Prop :=
  ∀ s t : State, step s = .next t →
    (s.halted = false →
      t.run = .started ∧ t.extOld = s.extNew ∧ t.extNew = (if s.ext.getLsbD 0 then .flash else .rom)) ∧
    (s.halted = true → t.run = s.run ∧ t.extOld = s.extOld ∧ t.extNew = s.extNew) ∧
    t.env = s.env.tail ∧ t.rom = s.rom ∧ t.params = s.params ∧ t.frequency = s.frequency

/-- R142, over three steps n, n+1 and n+2 that fetch (R380; every step does with R6's HALT_MODEL): each step makes extOld the old extNew
and extNew the bank EXT selects before it, and is fetched from the bank in extOld at the address the step before left in pc; so
n+1 is fetched from the bank EXT selected before n, and n+2 from the bank EXT selects after n. -/
def Obligations.BankSwitchTakesTwoSteps : Prop :=
  ∀ s t u v : State, step s = .next t → step t = .next u → step u = .next v →
    s.halted = false → t.halted = false → u.halted = false →
    t.extOld = s.extNew ∧ t.extNew = Bank.ofExt s.ext ∧ (∃ op, s.codeByte s.extNew s.pc = some op) ∧
    u.extOld = Bank.ofExt s.ext ∧ u.extNew = Bank.ofExt t.ext ∧ (∃ op, t.codeByte (Bank.ofExt s.ext) t.pc = some op) ∧
    v.extOld = Bank.ofExt t.ext ∧ v.extNew = Bank.ofExt u.ext ∧ (∃ op, u.codeByte (Bank.ofExt t.ext) u.pc = some op)

/-- R147, R322, R341, R376: a step counts as many ticks as CYCLES says for the opcode it fetched, at least one, before its poll, and
ENTRY_TICKS more when the poll enters a source; a step that waits counts one before its poll. That CYCLES is a table of the
parameters is log 4, where the ticks of an entry run log 9, and the waiting step log 10. -/
def Obligations.StepCountsItsTicks : Prop :=
  ∀ s t : State, step s = .next t →
    ∃ (n : Nat) (u : State), 1 ≤ n ∧ u.t1.cycles = s.t1.cycles + n ∧ t = u.poll ∧
      (s.halted = false → ∃ op, s.codeByte s.extNew s.pc = some op ∧ n = s.params.cycles op) ∧
      (s.halted = true → n = 1) ∧
      t.t1.cycles = s.t1.cycles + n + (if u.taken.isSome then s.params.entryTicks else 0)

/-- R54, R71, R311, R341 and R282, an inference of the spec from R260-R280: no instruction writes a latch of the controller, the timer's counters, mirrors, started bit
or cycle count, run, the bank latches, the ROM, the clock metadata, the parameters or the environment; only RETI changes the
in-service stack and only STF the Flash. -/
def Obligations.InstructionsLeaveTheRestAlone : Prop :=
  ∀ (i : Instr) (s t : State), exec i s = .next t →
    t.latches = s.latches ∧ t.run = s.run ∧ t.extOld = s.extOld ∧ t.extNew = s.extNew ∧ t.rom = s.rom ∧
    t.frequency = s.frequency ∧ t.params = s.params ∧ t.env = s.env ∧
    t.t1 = { s.t1 with cnt := t.t1.cnt, lr := t.t1.lr, hr := t.t1.hr } ∧
    (i ≠ .reti → t.inService = s.inService) ∧ (i ≠ .stf → t.flash = s.flash)

/-! ## Invariants -/

/-- The model's representation of R70 (log 1): every step keeps the memory regions in canonical form and inside their sizes. -/
def Obligations.StepKeepsMemoryCanonical : Prop :=
  ∀ s t : State, s.MemoryCanonical → step s = .next t → t.MemoryCanonical

/-- R345, which the spec derives from R340: every tick and every step keep the mirrors equal to the counters, so that the counters are at most 255. -/
def Obligations.StepKeepsTimerMirrored : Prop :=
  (∀ s : State, s.TimerMirrored → s.t1.lo ≤ 255 ∧ s.t1.hi ≤ 255) ∧
  (∀ s : State, s.TimerMirrored → s.tick.TimerMirrored) ∧
  ∀ s t : State, s.TimerMirrored → step s = .next t → t.TimerMirrored

/-- R323, R38: every step keeps each source in service ranked strictly higher than the one it interrupted. -/
def Obligations.StepKeepsNestedByRank : Prop :=
  ∀ s t : State, s.NestedByRank → step s = .next t → t.NestedByRank

/-- R35, R156: every step keeps PSW.P the parity of ACC when `P_MODE = parity`. -/
def Obligations.StepKeepsParity : Prop :=
  ∀ s t : State, s.ParityHolds → step s = .next t → t.ParityHolds

/-- The machine after reset meets the four invariants, and so does every machine construction makes from canonical ROM and Flash and any
supply of RAM (log 1). -/
def Obligations.ResetMeetsInvariants : Prop :=
  (State.reset.MemoryCanonical ∧ State.reset.TimerMirrored ∧ State.reset.NestedByRank ∧ State.reset.ParityHolds) ∧
  ∀ (p : Params) (draw : Nat → Byte) (ram rom flash : Memory) (l : Latches) (hle : Bool) (s : State),
    Memory.wf rom ∧ Memory.within p.romSize rom → Memory.wf flash ∧ Memory.within p.flashSize flash →
    construct p draw (some ram) (some rom) (some flash) (some l) hle = .ok s →
    s.MemoryCanonical ∧ s.TimerMirrored ∧ s.NestedByRank ∧ s.ParityHolds

/-- R38 and R326, which the spec derives from R322 and R323: sources in service that are nested by rank are all different, and at most eleven. -/
def Obligations.NestingIsBounded : Prop :=
  ∀ s : State, s.NestedByRank → s.inService.Nodup ∧ s.inService.length ≤ 11

/-- The model's representation of a region (log 1): two canonical memories that read the same at every address are equal data. -/
def Obligations.CanonicalMemoriesAgree : Prop :=
  ∀ m m' : Memory, Memory.wf m → Memory.wf m' → (∀ a, Memory.read m a = Memory.read m' a) → m = m'

/-- R79, R115 and R304, which the spec derives from R301: with the region sizes of R6 and no unimplemented opcode, no fault and no refusal ever ends a run, whatever the
program, the state and the environment. -/
def Obligations.NoRunFaultsWithFullRegions : Prop :=
  ∀ (s : State), 0x10000 ≤ s.params.romSize → 0x20000 ≤ s.params.flashSize → s.params.unimplemented = [] →
    ∀ n, RunsSafely n s

/-! ## Reset and construction -/

/-- R370 and R55: construction with a missing reference makes nothing; otherwise every piece of block state is at its reset value, a RAM
byte is the one the host supplied or else a draw, and ROM and Flash are as the host supplied them, whatever the flag. That
State.reset is such a machine with nothing supplied, its RAM draws those of Config, is the model's choice (log 1, 2). -/
def Obligations.ConstructionResets : Prop :=
  (∀ (p : Params) (draw : Nat → Byte) (ram rom flash : Option Memory) (ic : Option Latches) (hle : Bool),
    ram = none ∨ rom = none ∨ flash = none ∨ ic = none →
    construct p draw ram rom flash ic hle = .error .missingReference) ∧
  (∀ (p : Params) (draw : Nat → Byte) (ram rom flash : Memory) (ic : Latches) (hle : Bool),
    ∃ s, construct p draw (some ram) (some rom) (some flash) (some ic) hle = .ok s ∧
      s.pc = 0x0000 ∧ s.run = .stopped ∧ s.extOld = .rom ∧ s.extNew = .rom ∧
      (∀ r, s.sfrByte r = 0x00) ∧ s.t1.lr = 0x00 ∧ s.t1.hr = 0x00 ∧
      s.inService = [] ∧ (∀ src, s.getLatch src = false) ∧
      s.t1.lo = 0 ∧ s.t1.hi = 0 ∧ s.t1.loStarted = false ∧ s.t1.cycles = 0 ∧
      (∀ k, k < 512 → Memory.read s.ram k =
        match ram.find? fun cell => cell.1 == k with
        | some cell => cell.2
        | none => draw k) ∧
      s.rom = rom ∧ s.flash = flash ∧ s.params = p) ∧
  construct Params.spec Config.initialRam (some []) (some []) (some []) (some Latches.none) false = .ok State.reset ∧
  ∀ k, k < 512 → Memory.read State.reset.ram k = Config.initialRam k

/-- R373, and R374, which the spec derives from it: after construction, performHLE(e) changes pc alone; at any time, it puts every piece
of block state at its reset value with the given pc and writes no memory. That the parameters, the clock metadata and the model's
own fields are no block state, so that performHLE keeps them, is the model's choice (log 13). -/
def Obligations.HleDiffersOnlyInPc : Prop :=
  (∀ (p : Params) (draw : Nat → Byte) (ram rom flash : Memory) (ic : Latches) (hle : Bool) (s : State) (e : Nat),
    construct p draw (some ram) (some rom) (some flash) (some ic) hle = .ok s →
    s.performHle e = { s with pc := BitVec.ofNat 16 (e % 65536) }) ∧
  ∀ (s : State) (e : Nat),
    (s.performHle e).pc = BitVec.ofNat 16 (e % 65536) ∧ (s.performHle e).run = .stopped ∧
    (s.performHle e).extOld = .rom ∧ (s.performHle e).extNew = .rom ∧ (∀ r, (s.performHle e).sfrByte r = 0x00) ∧
    (s.performHle e).t1 = Timer1.atReset ∧ (s.performHle e).inService = [] ∧
    (∀ src, (s.performHle e).getLatch src = false) ∧
    (s.performHle e).ram = s.ram ∧ (s.performHle e).rom = s.rom ∧ (s.performHle e).flash = s.flash

/-! ## The interrupt controller -/

/-- R310: set makes a latch 1, clear makes it 0, both leave every other latch, and so both are idempotent; the port changes nothing but
the latches. -/
def Obligations.LatchPort : Prop :=
  ∀ (s : State) (src other : Source),
    (s.setLatch src).getLatch other = (if other = src then true else s.getLatch other) ∧
    (s.clearLatch src).getLatch other = (if other = src then false else s.getLatch other) ∧
    (s.setLatch src).setLatch src = s.setLatch src ∧ (s.clearLatch src).clearLatch src = s.clearLatch src ∧
    ((s.setLatch src).setLatch src).clearLatch src = s.clearLatch src ∧
    s.setLatch src = { s with latches := (s.setLatch src).latches } ∧
    s.clearLatch src = { s with latches := (s.clearLatch src).latches }

/-- The model's form of R312 (log 6): at a boundary the environment sets the latches its list names, clears none, and changes nothing
else of the block. -/
def Obligations.EnvironmentOnlySetsLatches : Prop :=
  ∀ (s : State),
    (∀ src, s.boundary.getLatch src = (s.getLatch src || decide (src ∈ s.env.headD []))) ∧
    s.boundary = { s with latches := s.boundary.latches, env := s.env.tail }

/-- R321, R322: entry clears the source's latch and no other, pushes pc low byte first (and PSW after it by the parameter), puts the
source on top of the in-service stack and goes to its vector, 0x0003 + 8 * (index - 1) for index 1 and up and 0x0000 for RESET;
rank is the index in the scan order; nothing else changes. -/
def Obligations.EntryPushesAndVectors : Prop :=
  ∀ (s : State) (src : Source),
    Source.scanOrder[src.rank]? = some src ∧
    (s.enter src).pc.toNat = (if src.rank = 0 then 0 else 3 + 8 * (src.rank - 1)) ∧
    (s.enter src).inService = s.inService ++ [src] ∧
    (∀ other, (s.enter src).getLatch other = if other = src then false else s.getLatch other) ∧
    (s.enter src).sp = s.sp + (if s.params.entrySavesPsw then 3 else 2) ∧
    (∀ k y, (s.enter src).ramByte k y =
      if k = 0 ∧ y = s.sp + 1 then s.pc.extractLsb' 0 8
      else if k = 0 ∧ y = s.sp + 2 then s.pc.extractLsb' 8 8
      else if k = 0 ∧ y = s.sp + 3 ∧ s.params.entrySavesPsw = true then s.psw
      else s.ramByte k y) ∧
    s.enter src = { s with
      pc := (s.enter src).pc
      inService := (s.enter src).inService
      latches := (s.enter src).latches
      sp := (s.enter src).sp
      ram := (s.enter src).ram }

/-- R320, R323: the poll does nothing while IE7 is 0; otherwise it enters the source of lowest rank that is latched and ranks strictly
higher than the top of the in-service stack (or nothing is in service), and does nothing when there is none. -/
def Obligations.PollEntersFirstEligible : Prop :=
  ∀ (s : State),
    (s.ie.getLsbD 7 = false → s.processInterrupts = s) ∧
    (s.ie.getLsbD 7 = true → (∀ src, ¬ s.MayEnter src) → s.processInterrupts = s) ∧
    (s.ie.getLsbD 7 = true → ∀ src, s.MayEnter src → (∀ other, s.MayEnter other → src.rank ≤ other.rank) →
      s.processInterrupts = s.enter src)

/-- R290: RETI pops the high byte and then the low byte of pc (after the whole of PSW, by the parameter) and takes the top off the
in-service stack, if there is one; nothing else changes. -/
def Obligations.RetiReturns : Prop :=
  Encodes .reti [0xB0] ∧
  ∀ (s : State),
    (s.params.entrySavesPsw = false →
      exec .reti s = .next { s with
        pc := s.ramByte 0 s.sp ++ s.ramByte 0 (s.sp - 1)
        sp := s.sp - 2
        inService := s.inService.dropLast }) ∧
    (s.params.entrySavesPsw = true →
      ∃ t, exec .reti s = .next t ∧
        (∀ k, 1 ≤ k → t.psw.getLsbD k = (s.ramByte 0 s.sp).getLsbD k) ∧
        (t.psw.getLsbD 0 = match s.params.pMode with
          | .stored => (s.ramByte 0 s.sp).getLsbD 0
          | .parity => s.psw.getLsbD 0) ∧
        t = { s with
          psw := t.psw
          pc := s.ramByte 0 (s.sp - 1) ++ s.ramByte 0 (s.sp - 2)
          sp := s.sp - 3
          inService := s.inService.dropLast })

/-- R290, R322 and R324, which the spec derives from R320 and R376: RETI right after an entry is back at the interrupted instruction, with SP, PSW and the in-service stack as they
were; what stays is the cleared latch and the stack bytes. -/
def Obligations.RetiUndoesEntry : Prop :=
  ∀ (s : State) (src : Source),
    exec .reti (s.enter src) = .next { s with ram := (s.enter src).ram, latches := s.latches.clear src }

/-! ## Timer 1 -/

/-- R340, R343, R344, R346: one tick, from the counts of the two halves through the overflows in their order to the status bits, the
latch, the mirrors and the audio notifications, in 8-bit and in cascade mode; nothing else changes. The address of the cascade
reload is OPEN (log 5). What its raw read gives at each address (R48, R80): the reload latches at the split addresses, the cell at
every other block-owned address, below 0x100 the RAM bank PSW selects (log 11), and at a device one free byte, drawn by a low
overflow in cascade mode alone (log 7). -/
def Obligations.TickCountsAndOverflows : Prop :=
  ∀ (s : State),
    let lowEn := s.t1.cnt.getLsbD 6
    let highEn := s.t1.cnt.getLsbD 7
    let long := s.t1.cnt.getLsbD 5
    let lo1 := if lowEn = true ∧ s.t1.loStarted = true then s.t1.lo + (if long = true ∧ highEn = false then 2 else 1)
      else s.t1.lr.toNat
    let hi1 := if highEn = false then s.t1.hr.toNat else if long = true then s.t1.hi else s.t1.hi + 1
    let lowOver : Prop := 255 < lo1
    let hi2 := if long = true ∧ lowOver then hi1 + 1 else hi1
    let highOver : Prop := 255 < hi2
    s.tick.t1.lo = (if lowOver ∧ long = false ∨ highOver ∧ long = true then s.t1.lr.toNat
      else if lowOver then (s.rawByte s.params.cascadeLowReload).toNat else lo1) ∧
    s.tick.t1.hi = (if highOver then s.t1.hr.toNat else hi2) ∧
    s.tick.t1.l = BitVec.ofNat 8 s.tick.t1.lo ∧ s.tick.t1.h = BitVec.ofNat 8 s.tick.t1.hi ∧
    s.tick.t1.loStarted = lowEn ∧ s.tick.t1.cycles = s.t1.cycles + 1 ∧
    (s.tick.t1.cnt.getLsbD 1 = true ↔ s.t1.cnt.getLsbD 1 = true ∨ lowOver ∧ long = false ∨ highOver ∧ long = true) ∧
    (s.tick.t1.cnt.getLsbD 3 = true ↔ s.t1.cnt.getLsbD 3 = true ∨ highOver) ∧
    (∀ k, k ≠ 1 → k ≠ 3 → s.tick.t1.cnt.getLsbD k = s.t1.cnt.getLsbD k) ∧
    (s.tick.getLatch .t1 = true ↔ s.getLatch .t1 = true ∨
      lowOver ∧ long = false ∧ s.t1.cnt.getLsbD 0 = true ∨ highOver ∧ s.t1.cnt.getLsbD 2 = true) ∧
    (∀ src, src ≠ .t1 → s.tick.getLatch src = s.getLatch src) ∧
    s.tick.events = s.events ++ (if lowEn = true ∧ s.t1.loStarted = false then [.setPeriod s.t1.lr] else [])
      ++ [.setEnabled (lowEn && !long)] ∧
    s.tick.t1.lr = s.t1.lr ∧ s.tick.t1.hr = s.t1.hr ∧
    s.tick.draws = s.draws + (if DeviceAddr s.params.cascadeLowReload ∧ long = true ∧ lowOver then 1 else 0) ∧
    s.tick = { s with t1 := s.tick.t1, latches := s.tick.latches, events := s.tick.events, draws := s.tick.draws } ∧
    (∀ a : DataAddr, a.toNat < 0x100 → s.rawByte a = s.ramByte (if s.psw.getLsbD 1 then 1 else 0) (a.setWidth 8)) ∧
    s.rawByte 0x11B = s.t1.lr ∧ s.rawByte 0x11D = s.t1.hr ∧
    (∀ a, a ∈ ownedAddrs → a ≠ 0x11B → a ≠ 0x11D → s.rawByte a = s.dataByte a) ∧
    ∀ a : DataAddr, DeviceAddr a → s.rawByte a = Config.freeByte s.draws

/-! ## The data space -/

/-- R40, R48, R72, R73, R74, R82: what a read of the data space gives, address by address, and that only a read of a device leaves a
trace. That a device's byte is the next free byte and that the read is recorded is the model's form (log 7, 8). -/
def Obligations.DataSpaceReads : Prop :=
  ∀ (s : State),
    (∀ a : DataAddr, a.toNat < 0x100 → s.dataByte a = s.ramByte (if s.psw.getLsbD 1 then 1 else 0) (a.setWidth 8)) ∧
    s.dataByte 0x100 = s.acc ∧ s.dataByte 0x101 = s.psw ∧ s.dataByte 0x102 = s.b ∧ s.dataByte 0x103 = s.c ∧
    s.dataByte 0x104 = s.trl ∧ s.dataByte 0x105 = s.trh ∧ s.dataByte 0x106 = s.sp ∧ s.dataByte 0x107 = s.pcon ∧
    s.dataByte 0x108 = s.ie ∧ s.dataByte 0x109 = s.ip ∧ s.dataByte 0x10D = s.ext ∧ s.dataByte 0x118 = s.t1.cnt ∧
    s.dataByte 0x11A = s.t1lc ∧ s.dataByte 0x11B = s.t1.l ∧ s.dataByte 0x11C = s.t1hc ∧ s.dataByte 0x11D = s.t1.h ∧
    s.dataByte 0x154 = s.fpr ∧
    ∀ a : DataAddr,
      if a.toNat < 0x100 ∨ a ∈ [0x100, 0x101, 0x102, 0x103, 0x104, 0x105, 0x106, 0x107, 0x108, 0x109, 0x10D, 0x118, 0x11A, 0x11B,
        0x11C, 0x11D, 0x154] then s.afterRead a = s
      else s.dataByte a = Config.freeByte s.draws ∧
        s.afterRead a = { s with draws := s.draws + 1, events := s.events ++ [.deviceRead a] }

/-- R40, R48, R72, R73, R74: what a write of the data space changes, address by address, and that it changes nothing else. That a write
to a device is recorded among the events is the model's form of the output event (log 8). -/
def Obligations.DataSpaceWrites : Prop :=
  ∀ (s : State) (v : Byte),
    (∀ a : DataAddr, a.toNat < 0x100 → RamWritten s (s.store a v) (if s.psw.getLsbD 1 then 1 else 0) (a.setWidth 8) v) ∧
    AccWritten s (s.store 0x100 v) v ∧
    (s.params.pMode = .stored → s.store 0x101 v = { s with psw := v }) ∧
    (s.params.pMode = .parity → s.store 0x101 v = { s with psw := (s.store 0x101 v).psw } ∧
      (s.store 0x101 v).psw.getLsbD 0 = s.psw.getLsbD 0 ∧ ∀ k, 1 ≤ k → (s.store 0x101 v).psw.getLsbD k = v.getLsbD k) ∧
    s.store 0x102 v = { s with b := v } ∧ s.store 0x103 v = { s with c := v } ∧ s.store 0x104 v = { s with trl := v } ∧
    s.store 0x105 v = { s with trh := v } ∧ s.store 0x106 v = { s with sp := v } ∧ s.store 0x107 v = { s with pcon := v } ∧
    s.store 0x108 v = { s with ie := v } ∧ s.store 0x109 v = { s with ip := v } ∧ s.store 0x10D v = { s with ext := v } ∧
    s.store 0x118 v = { s with t1 := { s.t1 with cnt := v } } ∧ s.store 0x11A v = { s with t1lc := v } ∧
    s.store 0x11B v = { s with t1 := { s.t1 with lr := v } } ∧ s.store 0x11C v = { s with t1hc := v } ∧
    s.store 0x11D v = { s with t1 := { s.t1 with hr := v } } ∧ s.store 0x154 v = { s with fpr := v } ∧
    ∀ a : DataAddr, 0x100 ≤ a.toNat →
      a ∉ [0x100, 0x101, 0x102, 0x103, 0x104, 0x105, 0x106, 0x107, 0x108, 0x109, 0x10D, 0x118, 0x11A, 0x11B, 0x11C, 0x11D,
        0x154] →
      s.store a v = { s with events := s.events ++ [.deviceWrite a v] }

/-- R106: the pointer of @Rj is j[1] above the byte at data address 4 * PSW[4:3] + j, read through the RAM bank, so that @R0 and @R1
reach 0x000-0x0FF and @R2 and @R3 0x100-0x1FF. -/
def Obligations.IndirectPointer : Prop :=
  ∀ (s : State) (j : BitVec 2),
    (s.indirect j).toNat = 256 * (j.toNat / 2) +
      (s.dataByte (BitVec.ofNat 9 (4 * (s.psw.toNat / 8 % 4) + j.toNat))).toNat ∧
    ((s.indirect j).toNat < 0x100 ↔ j = 0 ∨ j = 1)

/-- R34, R155: putting a flag and getting it gives what was put, and no other bit of PSW and nothing else changes; with
`P_MODE = parity` the same for the flags but P. -/
def Obligations.FlagsAreIndependent : Prop :=
  ∀ (s : State) (f : Flag) (x : Bool), s.params.pMode = .stored ∨ f ≠ .p →
    (s.putFlag f x).getFlag f = x ∧
    (∀ g, g ≠ f → (s.putFlag f x).getFlag g = s.getFlag g) ∧
    PswKept s (s.putFlag f x) [match f with | .cy => 7 | .ac => 6 | .ov => 2 | .p => 0] ∧
    s.putFlag f x = { s with psw := (s.putFlag f x).psw }

/-! ## Data transfer -/

/-- R180, R181: LD makes ACC the byte at its address and writes nothing else. -/
def Obligations.LoadsWriteAcc : Prop :=
  (∀ a, Encodes (.ldD9 a) [opD 0x02 a, a.setWidth 8]) ∧ (∀ j, Encodes (.ldInd j) [opJ 0x04 j]) ∧
  (∀ a s, ∃ t, exec (.ldD9 a) s = .next t ∧ AccWritten { s.afterRead a with pc := s.pc + 2 } t (s.dataByte a)) ∧
  ∀ j s, ∃ t, exec (.ldInd j) s = .next t ∧
    AccWritten { s.afterRead (s.indirect j) with pc := s.pc + 1 } t (s.dataByte (s.indirect j))

/-- R182, R183, R184, R185: ST stores ACC and MOV its immediate at the address, and nothing else is written. -/
def Obligations.StoresWriteData : Prop :=
  (∀ a, Encodes (.stD9 a) [opD 0x12 a, a.setWidth 8]) ∧ (∀ j, Encodes (.stInd j) [opJ 0x14 j]) ∧
  (∀ v a, Encodes (.movD9 v a) [opD 0x22 a, a.setWidth 8, v]) ∧ (∀ v j, Encodes (.movInd v j) [opJ 0x24 j, v]) ∧
  (∀ a s, ∃ t, exec (.stD9 a) s = .next t ∧ DataWritten { s with pc := s.pc + 2 } t a s.acc) ∧
  (∀ j s, ∃ t, exec (.stInd j) s = .next t ∧ DataWritten { s with pc := s.pc + 1 } t (s.indirect j) s.acc) ∧
  (∀ v a s, ∃ t, exec (.movD9 v a) s = .next t ∧ DataWritten { s with pc := s.pc + 3 } t a v) ∧
  ∀ v j s, ∃ t, exec (.movInd v j) s = .next t ∧ DataWritten { s with pc := s.pc + 2 } t (s.indirect j) v

/-- R189, R190: XCH reads the byte, stores ACC there, and then makes ACC the byte it read. -/
def Obligations.ExchangeSwaps : Prop :=
  (∀ a, Encodes (.xchD9 a) [opD 0xC2 a, a.setWidth 8]) ∧ (∀ j, Encodes (.xchInd j) [opJ 0xC4 j]) ∧
  (∀ a s, ∃ t u, exec (.xchD9 a) s = .next t ∧
    DataWritten { s.afterRead a with pc := s.pc + 2 } u a s.acc ∧ AccWritten u t (s.dataByte a)) ∧
  ∀ j s, ∃ t u, exec (.xchInd j) s = .next t ∧
    DataWritten { s.afterRead (s.indirect j) with pc := s.pc + 1 } u (s.indirect j) s.acc ∧
    AccWritten u t (s.dataByte (s.indirect j))

/-- R187: PUSH adds one to SP, reads its operand with the new SP, and stores the byte at the new SP in RAM bank 0. -/
def Obligations.PushStoresOnStack : Prop :=
  (∀ a, Encodes (.push a) [opD 0x60 a, a.setWidth 8]) ∧
  ∀ a s, ∃ t, exec (.push a) s = .next t ∧
    RamWritten { ({ s with sp := s.sp + 1 } : State).afterRead a with pc := s.pc + 2 } t 0 (s.sp + 1)
      (({ s with sp := s.sp + 1 } : State).dataByte a)

/-- R188: POP writes the byte at SP in RAM bank 0 to its destination, and then takes one from SP as the write left it. -/
def Obligations.PopWritesThenLowersSp : Prop :=
  (∀ a, Encodes (.pop a) [opD 0x70 a, a.setWidth 8]) ∧
  ∀ a s, ∃ t u, DataWritten s u a (s.ramByte 0 s.sp) ∧ exec (.pop a) s = .next t ∧
    t = { u with sp := u.sp - 1, pc := s.pc + 2 }

/-- R186: LDC makes ACC the byte at (TRH:TRL + ACC) mod 2^16 of the bank it was fetched from, and faults when the region does not have
that address. -/
def Obligations.LdcReadsCode : Prop :=
  Encodes .ldc [0xC1] ∧
  ∀ (s : State) (a : Nat), a = (s.trh.toNat * 256 + s.trl.toNat + s.acc.toNat) % 65536 →
    (a < s.codeSize s.extOld →
      ∃ t, exec .ldc s = .next t ∧ AccWritten { s with pc := s.pc + 1 } t (s.regionByte s.extOld a)) ∧
    (s.codeSize s.extOld ≤ a → exec .ldc s = .fault (.outOfRange (.code s.extOld) a))

/-! ## Arithmetic -/

/-- R200, R203-R208: ADD and ADDC in their three operand forms, with the carry in read from PSW before the instruction. -/
def Obligations.Additions : Prop :=
  AluEncodings .addImm .addD9 .addInd 0x81 0x82 0x84 ∧ AluEncodings .addcImm .addcD9 .addcInd 0x91 0x92 0x94 ∧
  AluForms .addImm .addD9 .addInd (fun s t v => Added s t v false) ∧
  AluForms .addcImm .addcD9 .addcInd (fun s t v => Added s t v (s.psw.getLsbD 7))

/-- R201, R209-R214: SUB and SUBC in their three operand forms, with the borrow in read from PSW before the instruction. -/
def Obligations.Subtractions : Prop :=
  AluEncodings .subImm .subD9 .subInd 0xA1 0xA2 0xA4 ∧ AluEncodings .subcImm .subcD9 .subcInd 0xB1 0xB2 0xB4 ∧
  AluForms .subImm .subD9 .subInd (fun s t v => Subtracted s t v false) ∧
  AluForms .subcImm .subcD9 .subcInd (fun s t v => Subtracted s t v (s.psw.getLsbD 7))

/-- R215: MUL puts the 24-bit product of ACC:C and B in B, ACC and C, clears CY, sets OV when it does not fit in 16 bits, and writes
nothing else. -/
def Obligations.MulGivesProduct : Prop :=
  Encodes .mul [0x30] ∧
  ∀ s, ∃ t, exec .mul s = .next t ∧
    t.b.toNat * 65536 + t.acc.toNat * 256 + t.c.toNat = (s.acc.toNat * 256 + s.c.toNat) * s.b.toNat ∧
    t.psw.getLsbD 7 = false ∧
    t.psw.getLsbD 2 = decide (65535 < (s.acc.toNat * 256 + s.c.toNat) * s.b.toNat) ∧
    PswKept s t [7, 2, 0] ∧ ParityFollows s t ∧
    t = { s with acc := t.acc, b := t.b, c := t.c, psw := t.psw, pc := s.pc + 1 }

/-- R216: DIV puts the quotient of ACC:C by B in ACC and C and the remainder in B and clears CY and OV; with B = 0 it sets OV, clears
CY and goes on, and no value is claimed for ACC, B and C. Nothing else is written. -/
def Obligations.DivGivesQuotientAndRemainder : Prop :=
  Encodes .div [0x40] ∧
  (∀ s : State, s.b ≠ 0 → ∃ t, exec .div s = .next t ∧
    (t.acc.toNat * 256 + t.c.toNat) * s.b.toNat + t.b.toNat = s.acc.toNat * 256 + s.c.toNat ∧ t.b.toNat < s.b.toNat ∧
    t.psw.getLsbD 7 = false ∧ t.psw.getLsbD 2 = false ∧ PswKept s t [7, 2, 0] ∧ ParityFollows s t ∧
    t = { s with acc := t.acc, b := t.b, c := t.c, psw := t.psw, pc := s.pc + 1 }) ∧
  ∀ s : State, s.b = 0 → ∃ t, exec .div s = .next t ∧
    t.psw.getLsbD 7 = false ∧ t.psw.getLsbD 2 = true ∧ PswKept s t [7, 2, 0] ∧ ParityFollows s t ∧
    t = { s with acc := t.acc, b := t.b, c := t.c, psw := t.psw, pc := s.pc + 1, draws := t.draws }

/-- R217, R218, R219, R220: INC and DEC write the byte they read plus or minus one modulo 2^8, and no flag but through their operand. -/
def Obligations.IncrementsAndDecrements : Prop :=
  (∀ a, Encodes (.incD9 a) [opD 0x62 a, a.setWidth 8]) ∧ (∀ j, Encodes (.incInd j) [opJ 0x64 j]) ∧
  (∀ a, Encodes (.decD9 a) [opD 0x72 a, a.setWidth 8]) ∧ (∀ j, Encodes (.decInd j) [opJ 0x74 j]) ∧
  (∀ a s, ∃ t, exec (.incD9 a) s = .next t ∧
    DataWritten { s.afterRead a with pc := s.pc + 2 } t a (BitVec.ofNat 8 (((s.dataByte a).toNat + 1) % 256))) ∧
  (∀ j s, ∃ t, exec (.incInd j) s = .next t ∧
    DataWritten { s.afterRead (s.indirect j) with pc := s.pc + 1 } t (s.indirect j)
      (BitVec.ofNat 8 (((s.dataByte (s.indirect j)).toNat + 1) % 256))) ∧
  (∀ a s, ∃ t, exec (.decD9 a) s = .next t ∧
    DataWritten { s.afterRead a with pc := s.pc + 2 } t a (BitVec.ofNat 8 (((s.dataByte a).toNat + 255) % 256))) ∧
  ∀ j s, ∃ t, exec (.decInd j) s = .next t ∧
    DataWritten { s.afterRead (s.indirect j) with pc := s.pc + 1 } t (s.indirect j)
      (BitVec.ofNat 8 (((s.dataByte (s.indirect j)).toNat + 255) % 256))

/-! ## Logic, rotates and bits -/

/-- R230-R238: AND, OR and XOR in their three operand forms write ACC bit by bit and no flag. -/
def Obligations.LogicWritesAcc : Prop :=
  AluEncodings .andImm .andD9 .andInd 0xE1 0xE2 0xE4 ∧ AluEncodings .orImm .orD9 .orInd 0xD1 0xD2 0xD4 ∧
  AluEncodings .xorImm .xorD9 .xorInd 0xF1 0xF2 0xF4 ∧
  AluForms .andImm .andD9 .andInd (fun s t v => AccWritten s t t.acc ∧
    ∀ k, t.acc.getLsbD k = (s.acc.getLsbD k && v.getLsbD k)) ∧
  AluForms .orImm .orD9 .orInd (fun s t v => AccWritten s t t.acc ∧
    ∀ k, t.acc.getLsbD k = (s.acc.getLsbD k || v.getLsbD k)) ∧
  AluForms .xorImm .xorD9 .xorInd (fun s t v => AccWritten s t t.acc ∧
    ∀ k, t.acc.getLsbD k = (s.acc.getLsbD k ^^ v.getLsbD k))

/-- R239-R242: ROL and ROR rotate ACC by one and write no flag; ROLC and RORC rotate ACC and CY as nine bits and write CY alone. -/
def Obligations.RotatesMoveBits : Prop :=
  Encodes .rol [0xE0] ∧ Encodes .rolc [0xF0] ∧ Encodes .ror [0xC0] ∧ Encodes .rorc [0xD0] ∧
  ∀ s : State,
    (∃ t, exec .rol s = .next t ∧ AccWritten { s with pc := s.pc + 1 } t t.acc ∧
      ∀ k, k < 8 → t.acc.getLsbD k = s.acc.getLsbD ((k + 7) % 8)) ∧
    (∃ t, exec .ror s = .next t ∧ AccWritten { s with pc := s.pc + 1 } t t.acc ∧
      ∀ k, k < 8 → t.acc.getLsbD k = s.acc.getLsbD ((k + 1) % 8)) ∧
    (∃ t u, exec .rolc s = .next t ∧ AccWritten { s with pc := s.pc + 1 } u u.acc ∧ CarryWritten u t (s.acc.getLsbD 7) ∧
      u.acc.getLsbD 0 = s.psw.getLsbD 7 ∧ ∀ k, 1 ≤ k → k < 8 → u.acc.getLsbD k = s.acc.getLsbD (k - 1)) ∧
    (∃ t u, exec .rorc s = .next t ∧ AccWritten { s with pc := s.pc + 1 } u u.acc ∧ CarryWritten u t (s.acc.getLsbD 0) ∧
      u.acc.getLsbD 7 = s.psw.getLsbD 7 ∧ ∀ k, k < 7 → u.acc.getLsbD k = s.acc.getLsbD (k + 1))

/-- R250, R251, R252: SET1, CLR1 and NOT1 write the byte they read with the one bit set, cleared or complemented, whatever the bit
was. -/
def Obligations.BitInstructionsWriteOneBit : Prop :=
  (∀ a n, Encodes (.set1 a n) [opB 0xE8 a n, a.setWidth 8]) ∧ (∀ a n, Encodes (.clr1 a n) [opB 0xC8 a n, a.setWidth 8]) ∧
  (∀ a n, Encodes (.not1 a n) [opB 0xA8 a n, a.setWidth 8]) ∧
  ∀ (a : DataAddr) (n : BitVec 3) (s : State),
    (∃ t w, exec (.set1 a n) s = .next t ∧ DataWritten { s.afterRead a with pc := s.pc + 2 } t a w ∧
      ∀ k, w.getLsbD k = if k = n.toNat then true else (s.dataByte a).getLsbD k) ∧
    (∃ t w, exec (.clr1 a n) s = .next t ∧ DataWritten { s.afterRead a with pc := s.pc + 2 } t a w ∧
      ∀ k, w.getLsbD k = if k = n.toNat then false else (s.dataByte a).getLsbD k) ∧
    (∃ t w, exec (.not1 a n) s = .next t ∧ DataWritten { s.afterRead a with pc := s.pc + 2 } t a w ∧
      ∀ k, w.getLsbD k = if k = n.toNat then !(s.dataByte a).getLsbD k else (s.dataByte a).getLsbD k)

/-! ## Control transfer -/

/-- R260-R263, R291: the unconditional jumps and NOP write pc alone: JMP keeps the 4 KiB block of the next instruction, JMPF takes its
operand, BR counts from the next instruction, BRF from the last byte of its own. -/
def Obligations.JumpsWritePcAlone : Prop :=
  (∀ a, Encodes (.jmp a) [opA12 0x28 a, a.setWidth 8]) ∧ (∀ a, Encodes (.jmpf a) [0x21, (a >>> 8).setWidth 8, a.setWidth 8]) ∧
  (∀ r, Encodes (.br r) [0x01, r]) ∧ (∀ r, Encodes (.brf r) [0x11, r.setWidth 8, (r >>> 8).setWidth 8]) ∧
  Encodes .nop [0x00] ∧
  ∀ s : State,
    (∀ a, exec (.jmp a) s = .next { s with pc := BitVec.ofNat 16 ((s.pc + 2).toNat / 4096 * 4096 + a.toNat) }) ∧
    (∀ a, exec (.jmpf a) s = .next { s with pc := a }) ∧
    (∀ r, exec (.br r) s = .next { s with pc := shortTarget s.pc 2 r }) ∧
    (∀ r, exec (.brf r) s = .next { s with pc := BitVec.ofNat 16 (s.pc.toNat + 2 + r.toNat) }) ∧
    exec .nop s = .next { s with pc := s.pc + 1 }

/-- R264, R265: BZ and BNZ test ACC and write pc alone. -/
def Obligations.AccBranches : Prop :=
  (∀ r, Encodes (.bz r) [0x80, r]) ∧ (∀ r, Encodes (.bnz r) [0x90, r]) ∧
  ∀ (r : Byte) (s : State),
    exec (.bz r) s = .next { s with pc := if s.acc = 0 then shortTarget s.pc 2 r else s.pc + 2 } ∧
    exec (.bnz r) s = .next { s with pc := if s.acc ≠ 0 then shortTarget s.pc 2 r else s.pc + 2 }

/-- R266, R267, R268: BP and BN read a bit once and write pc alone; BPC also writes the byte with the bit cleared when it was 1, and
makes no write when it was 0. -/
def Obligations.BitBranches : Prop :=
  (∀ a n r, Encodes (.bp a n r) [opB 0x68 a n, a.setWidth 8, r]) ∧
  (∀ a n r, Encodes (.bpc a n r) [opB 0x48 a n, a.setWidth 8, r]) ∧
  (∀ a n r, Encodes (.bn a n r) [opB 0x88 a n, a.setWidth 8, r]) ∧
  ∀ (a : DataAddr) (n : BitVec 3) (r : Byte) (s : State),
    exec (.bp a n r) s = .next { s.afterRead a with
      pc := if (s.dataByte a).getLsbD n.toNat then shortTarget s.pc 3 r else s.pc + 3 } ∧
    exec (.bn a n r) s = .next { s.afterRead a with
      pc := if (s.dataByte a).getLsbD n.toNat then s.pc + 3 else shortTarget s.pc 3 r } ∧
    ((s.dataByte a).getLsbD n.toNat = false → exec (.bpc a n r) s = .next { s.afterRead a with pc := s.pc + 3 }) ∧
    ((s.dataByte a).getLsbD n.toNat = true →
      ∃ t w, exec (.bpc a n r) s = .next t ∧ DataWritten { s.afterRead a with pc := shortTarget s.pc 3 r } t a w ∧
        ∀ k, w.getLsbD k = if k = n.toNat then false else (s.dataByte a).getLsbD k)

/-- R269, R270: DBNZ writes the byte it read minus one modulo 2^8 and branches when that is not zero; the @Rj form is two bytes long. -/
def Obligations.DecrementBranches : Prop :=
  (∀ a r, Encodes (.dbnzD9 a r) [opD 0x52 a, a.setWidth 8, r]) ∧ (∀ j r, Encodes (.dbnzInd j r) [opJ 0x54 j, r]) ∧
  (∀ a r s, ∃ t, exec (.dbnzD9 a r) s = .next t ∧
    DataWritten { s.afterRead a with pc := if s.dataByte a ≠ 1 then shortTarget s.pc 3 r else s.pc + 3 } t a
      (BitVec.ofNat 8 (((s.dataByte a).toNat + 255) % 256))) ∧
  ∀ j r s, ∃ t, exec (.dbnzInd j r) s = .next t ∧
    DataWritten { s.afterRead (s.indirect j) with
      pc := if s.dataByte (s.indirect j) ≠ 1 then shortTarget s.pc 2 r else s.pc + 2 } t (s.indirect j)
      (BitVec.ofNat 8 (((s.dataByte (s.indirect j)).toNat + 255) % 256))

/-- R271-R276: BE and BNE make CY "left is less than right", unsigned, branch on equality or its opposite, and write nothing else. The
left value is ACC in the immediate and d9 forms and the byte at @Rj in the @Rj forms. -/
def Obligations.CompareBranches : Prop :=
  (∀ v r, Encodes (.beImm v r) [0x31, v, r]) ∧ (∀ a r, Encodes (.beD9 a r) [opD 0x32 a, a.setWidth 8, r]) ∧
  (∀ j v r, Encodes (.beInd j v r) [opJ 0x34 j, v, r]) ∧
  (∀ v r, Encodes (.bneImm v r) [0x41, v, r]) ∧ (∀ a r, Encodes (.bneD9 a r) [opD 0x42 a, a.setWidth 8, r]) ∧
  (∀ j v r, Encodes (.bneInd j v r) [opJ 0x44 j, v, r]) ∧
  ∀ (s : State) (v r : Byte) (a : DataAddr) (j : BitVec 2),
    (∃ t, exec (.beImm v r) s = .next t ∧
      CarryWritten { s with pc := if s.acc = v then shortTarget s.pc 3 r else s.pc + 3 } t
        (decide (s.acc.toNat < v.toNat))) ∧
    (∃ t, exec (.beD9 a r) s = .next t ∧
      CarryWritten { s.afterRead a with pc := if s.acc = s.dataByte a then shortTarget s.pc 3 r else s.pc + 3 } t
        (decide (s.acc.toNat < (s.dataByte a).toNat))) ∧
    (∃ t, exec (.beInd j v r) s = .next t ∧
      CarryWritten { s.afterRead (s.indirect j) with
        pc := if s.dataByte (s.indirect j) = v then shortTarget s.pc 3 r else s.pc + 3 } t
        (decide ((s.dataByte (s.indirect j)).toNat < v.toNat))) ∧
    (∃ t, exec (.bneImm v r) s = .next t ∧
      CarryWritten { s with pc := if s.acc = v then s.pc + 3 else shortTarget s.pc 3 r } t
        (decide (s.acc.toNat < v.toNat))) ∧
    (∃ t, exec (.bneD9 a r) s = .next t ∧
      CarryWritten { s.afterRead a with pc := if s.acc = s.dataByte a then s.pc + 3 else shortTarget s.pc 3 r } t
        (decide (s.acc.toNat < (s.dataByte a).toNat))) ∧
    ∃ t, exec (.bneInd j v r) s = .next t ∧
      CarryWritten { s.afterRead (s.indirect j) with
        pc := if s.dataByte (s.indirect j) = v then s.pc + 3 else shortTarget s.pc 3 r } t
        (decide ((s.dataByte (s.indirect j)).toNat < v.toNat))

/-- R277, R278, R279: the calls push the address of the next instruction, low byte first, and go to their target. -/
def Obligations.CallsPushAndJump : Prop :=
  (∀ a, Encodes (.call a) [opA12 0x08 a, a.setWidth 8]) ∧ (∀ a, Encodes (.callf a) [0x20, (a >>> 8).setWidth 8, a.setWidth 8]) ∧
  (∀ r, Encodes (.callr r) [0x10, r.setWidth 8, (r >>> 8).setWidth 8]) ∧
  ∀ s : State,
    (∀ a, ∃ t, exec (.call a) s = .next t ∧
      PcPushed { s with pc := BitVec.ofNat 16 ((s.pc + 2).toNat / 4096 * 4096 + a.toNat) } t (s.pc + 2)) ∧
    (∀ a, ∃ t, exec (.callf a) s = .next t ∧ PcPushed { s with pc := a } t (s.pc + 3)) ∧
    ∀ r, ∃ t, exec (.callr r) s = .next t ∧
      PcPushed { s with pc := BitVec.ofNat 16 (s.pc.toNat + 2 + r.toNat) } t (s.pc + 3)

/-- R280: RET pops pc, the high byte first, and touches nothing else; the in-service stack in particular stays. -/
def Obligations.RetPopsPc : Prop :=
  Encodes .ret [0xA0] ∧
  ∀ s, exec .ret s = .next { s with
    pc := BitVec.ofNat 16 ((s.ramByte 0 s.sp).toNat * 256 + (s.ramByte 0 (s.sp - 1)).toNat)
    sp := s.sp - 2 }

/-- R154, R277, R278, R279, R280: RET right after a call is at the instruction after the call, with SP as it was and only the stack bytes
changed. -/
def Obligations.RetReturnsFromCall : Prop :=
  ∀ s : State,
    (∀ a, ∃ u, exec (.call a) s = .next u ∧ exec .ret u = .next { s with pc := s.pc + 2, ram := u.ram }) ∧
    (∀ a, ∃ u, exec (.callf a) s = .next u ∧ exec .ret u = .next { s with pc := s.pc + 3, ram := u.ram }) ∧
    ∀ r, ∃ u, exec (.callr r) s = .next u ∧ exec .ret u = .next { s with pc := s.pc + 3, ram := u.ram }

/-! ## The Flash -/

/-- R292: LDF makes ACC the Flash byte at FPR[0], TRH, TRL, and faults when the Flash does not have that address. -/
def Obligations.LdfReadsFlash : Prop :=
  Encodes .ldf [0x50] ∧
  ∀ (s : State) (fa : Nat), fa = s.fpr.toNat % 2 * 65536 + s.trh.toNat * 256 + s.trl.toNat →
    (fa < s.params.flashSize →
      ∃ t, exec .ldf s = .next t ∧ AccWritten { s with pc := s.pc + 1 } t (Memory.read s.flash fa)) ∧
    (s.params.flashSize ≤ fa → exec .ldf s = .fault (.outOfRange .flash fa))

/-- R293: with `FLASH_WRITE_MODEL = plain`, STF makes the Flash byte at FPR[0], TRH, TRL the value of ACC and changes no other byte and
nothing else; with any model it faults when the Flash does not have that address. FlashStoreIsFetched has the other model. -/
def Obligations.StfWritesFlash : Prop :=
  Encodes .stf [0x51] ∧
  ∀ (s : State) (fa : Nat), fa = s.fpr.toNat % 2 * 65536 + s.trh.toNat * 256 + s.trl.toNat →
    (s.params.flashWriteModel = .plain → fa < s.params.flashSize →
      ∃ t, exec .stf s = .next t ∧ (∀ k, Memory.read t.flash k = if k = fa then s.acc else Memory.read s.flash k) ∧
        t = { s with flash := t.flash, pc := s.pc + 1 }) ∧
    (s.params.flashSize ≤ fa → exec .stf s = .fault (.outOfRange .flash fa))

/-- R87, R293: after an STF below 0x10000, the next fetch of that address (TRH:TRL) from the Flash bank reads the stored byte, and every
other address fetches as before. The byte is ACC with `FLASH_WRITE_MODEL = plain`; with a model the spec does not describe it is a
free byte, and nothing else differs (the model's choice, log 10). -/
def Obligations.FlashStoreIsFetched : Prop :=
  (∀ s t : State, s.fpr.getLsbD 0 = false → exec .stf s = .next t →
    t.codeByte .flash s.tableRef = some (match s.params.flashWriteModel with
      | .plain => s.acc
      | .unspecified => Config.freeByte s.draws) ∧
    ∀ a, a ≠ s.tableRef → t.codeByte .flash a = s.codeByte .flash a) ∧
  ∀ (s : State) (fa : Nat), fa = s.fpr.toNat % 2 * 65536 + s.trh.toNat * 256 + s.trl.toNat →
    s.params.flashWriteModel = .unspecified → fa < s.params.flashSize →
    ∃ t, exec .stf s = .next t ∧
      (∀ k, Memory.read t.flash k = if k = fa then Config.freeByte s.draws else Memory.read s.flash k) ∧
      t = { s with flash := t.flash, pc := s.pc + 1, draws := s.draws + 1 }

/-! ## The parameters of a step -/

/-- R6, R322, R360, R376: the poll of a step is processInterrupts with the values R6 gives ENTRY_TICKS and HALT_MODEL. What it does with
other values is the model's choice: an entry's ticks run after it, in its step (log 9); with `HALT_MODEL = suspends` (the model's
name), while PCON bit 0 is 1 a step runs no instruction but the boundary, one tick and the poll, and an entry clears the bit
(log 10). -/
def Obligations.EntryTicksAndHalt : Prop :=
  ∀ s : State,
    (∀ src, s.taken = some src ↔
      s.ie.getLsbD 7 = true ∧ s.MayEnter src ∧ ∀ other, s.MayEnter other → src.rank ≤ other.rank) ∧
    (s.taken = none → s.poll = s) ∧
    (∀ src, s.taken = some src → s.poll = State.tickN s.params.entryTicks { s.enter src with pcon := s.wokenPcon }) ∧
    (s.params.entryTicks = 0 → s.params.haltModel = .ignored → s.poll = s.processInterrupts) ∧
    (s.params.haltModel = .ignored → s.wokenPcon = s.pcon) ∧
    (s.params.haltModel = .suspends → ∀ k, s.wokenPcon.getLsbD k = (if k = 0 then false else s.pcon.getLsbD k)) ∧
    (s.halted = true ↔ s.params.haltModel = .suspends ∧ s.pcon.getLsbD 0 = true) ∧
    (s.halted = true → step s = .next (State.tickN 1 s.boundary).poll)
end

