-- ==== Sys2Proof/Laws/Memory.lean ====
section
/-! SUPPORT. The laws of a memory region: read after write, and the canonical form. -/

namespace Sys2Proof.Machine

theorem read_erase (m : Memory) (a b : Nat) :
    Memory.read (Memory.erase m a) b = if a = b then blank else Memory.read m b := by
  induction m with
  | nil => simp [Memory.erase, Memory.read]
  | cons x m ih =>
    obtain ⟨k, v⟩ := x
    by_cases h : k = a <;> by_cases h' : k = b <;> simp_all [Memory.erase, Memory.read]
    omega

theorem read_insert (m : Memory) (a b : Nat) (v : Byte) :
    Memory.read (Memory.insert m a v) b = if a = b then v else Memory.read m b := by
  induction m with
  | nil => simp [Memory.insert, Memory.read]
  | cons x m ih =>
    obtain ⟨k, w⟩ := x
    by_cases h : a < k
    · simp [Memory.insert, h, Memory.read]
    · by_cases h' : a = k
      · subst h'
        by_cases hb : a = b <;> simp [Memory.insert, Memory.read, hb]
      · by_cases hb : k = b
        · subst hb
          simp [Memory.insert, Memory.read, h, h']
        · simp [Memory.insert, Memory.read, h, h', hb, ih]

/-- Reading after a write: the written byte at its address, and the old byte everywhere else. -/
theorem read_write (m : Memory) (a b : Nat) (v : Byte) :
    Memory.read (Memory.write m a v) b = if a = b then v else Memory.read m b := by
  by_cases hv : v = blank
  · simp [Memory.write, hv, read_erase]
  · simp [Memory.write, hv, read_insert]

theorem mem_erase {m : Memory} {a : Nat} {x : Host.Cell} (h : x ∈ Memory.erase m a) : x ∈ m := by
  induction m with
  | nil => simp [Memory.erase] at h
  | cons y m ih =>
    obtain ⟨k, v⟩ := y
    by_cases hk : k = a
    · simp [Memory.erase, hk] at h
      exact List.mem_cons_of_mem _ (ih h)
    · simp [Memory.erase, hk] at h
      rcases h with h | h
      · simp [h]
      · exact List.mem_cons_of_mem _ (ih h)

theorem mem_insert {m : Memory} {a : Nat} {v : Byte} {x : Host.Cell} (h : x ∈ Memory.insert m a v) :
    x = (a, v) ∨ x ∈ m := by
  induction m with
  | nil => simpa [Memory.insert] using h
  | cons y m ih =>
    obtain ⟨k, w⟩ := y
    simp only [Memory.insert] at h
    split at h
    · simpa using h
    · split at h
      · rcases List.mem_cons.1 h with h | h
        · exact .inl h
        · exact .inr (List.mem_cons_of_mem _ h)
      · rcases List.mem_cons.1 h with h | h
        · exact .inr (by simp [h])
        · exact (ih h).imp id (List.mem_cons_of_mem _)

theorem wf_erase {m : Memory} (h : Memory.wf m) (a : Nat) : Memory.wf (Memory.erase m a) := by
  refine ⟨?_, fun x hx => h.2 x (mem_erase hx)⟩
  have hp := h.1
  clear h
  induction m with
  | nil => simp [Memory.erase]
  | cons y m ih =>
    obtain ⟨k, v⟩ := y
    rw [List.pairwise_cons] at hp
    by_cases hk : k = a
    · simpa [Memory.erase, hk] using ih hp.2
    · simp only [Memory.erase, hk, if_false, List.pairwise_cons]
      exact ⟨fun x hx => hp.1 x (mem_erase hx), ih hp.2⟩

theorem wf_insert {m : Memory} (h : Memory.wf m) (a : Nat) {v : Byte} (hv : v ≠ blank) :
    Memory.wf (Memory.insert m a v) := by
  refine ⟨?_, fun x hx => ?_⟩
  · have hp := h.1
    clear h
    induction m with
    | nil => simp [Memory.insert]
    | cons y m ih =>
      obtain ⟨k, w⟩ := y
      have hq := List.pairwise_cons.1 hp
      simp only [Memory.insert]
      split
      · rename_i hlt
        refine List.pairwise_cons.2 ⟨fun x hx => ?_, hp⟩
        rcases List.mem_cons.1 hx with hx | hx
        · simpa [hx] using hlt
        · have := hq.1 x hx
          simp at this ⊢
          omega
      · split
        · rename_i heq
          exact List.pairwise_cons.2 ⟨fun x hx => by simpa [heq] using hq.1 x hx, hq.2⟩
        · refine List.pairwise_cons.2 ⟨fun x hx => ?_, ih hq.2⟩
          rcases mem_insert hx with hx | hx
          · simp [hx]; omega
          · exact hq.1 x hx
  · rcases mem_insert hx with hx | hx
    · simpa [hx] using hv
    · exact h.2 x hx

/-- A write keeps the canonical form. -/
theorem wf_write {m : Memory} (h : Memory.wf m) (a : Nat) (v : Byte) : Memory.wf (Memory.write m a v) := by
  by_cases hv : v = blank
  · simpa [Memory.write, hv] using wf_erase h a
  · simpa [Memory.write, hv] using wf_insert h a hv

/-- A write inside a region keeps every listed address inside it. -/
theorem within_write {m : Memory} {n a : Nat} (h : Memory.within n m) (ha : a < n) (v : Byte) :
    Memory.within n (Memory.write m a v) := by
  intro x hx
  by_cases hv : v = blank
  · exact h x (mem_erase (by simpa [Memory.write, hv] using hx))
  · rcases mem_insert (by simpa [Memory.write, hv] using hx) with hx | hx
    · simpa [hx] using ha
    · exact h x hx

theorem wf_nil : Memory.wf [] := by simp [Memory.wf]

theorem within_nil (n : Nat) : Memory.within n [] := by simp [Memory.within]

/-! ## A region at construction -/

theorem wf_supplied (given : Memory) (draw : Nat → Byte) (n : Nat) : Memory.wf (Memory.supplied given draw n) := by
  induction n with
  | zero => exact wf_nil
  | succ n ih => exact wf_write ih _ _

theorem within_mono {m : Memory} {n k : Nat} (h : Memory.within n m) (hk : n ≤ k) : Memory.within k m :=
  fun x hx => Nat.lt_of_lt_of_le (h x hx) hk

theorem within_supplied (given : Memory) (draw : Nat → Byte) (n : Nat) :
    Memory.within n (Memory.supplied given draw n) := by
  induction n with
  | zero => exact within_nil 0
  | succ n ih => exact within_write (within_mono ih (Nat.le_succ n)) (Nat.lt_succ_self n) _

/-- Each byte of a region at construction is the supplied one, and the draw of its address where none is supplied. -/
theorem read_supplied (given : Memory) (draw : Nat → Byte) {n a : Nat} (h : a < n) :
    Memory.read (Memory.supplied given draw n) a = (Memory.lookup given a).getD (draw a) := by
  induction n with
  | zero => omega
  | succ n ih =>
    rw [Memory.supplied, read_write]
    split
    · rename_i he
      rw [he]
    · exact ih (by omega)

end Sys2Proof.Machine
end

