-- ==== Sys2Proof/Laws/State.lean ====
section
/-! SUPPORT. One lemma for each field of State under each record update the operations are made of: what the field is after it. -/

namespace Sys2Proof.Machine

section setAcc
variable (s : State) (v : Byte)
@[simp] theorem setAcc_pc : (s.setAcc v).pc = s.pc := rfl
@[simp] theorem setAcc_extOld : (s.setAcc v).extOld = s.extOld := rfl
@[simp] theorem setAcc_extNew : (s.setAcc v).extNew = s.extNew := rfl
@[simp] theorem setAcc_run : (s.setAcc v).run = s.run := rfl
@[simp] theorem setAcc_acc : (s.setAcc v).acc = v := rfl
@[simp] theorem setAcc_psw : (s.setAcc v).psw = s.accPsw v := rfl
@[simp] theorem setAcc_b : (s.setAcc v).b = s.b := rfl
@[simp] theorem setAcc_c : (s.setAcc v).c = s.c := rfl
@[simp] theorem setAcc_trl : (s.setAcc v).trl = s.trl := rfl
@[simp] theorem setAcc_trh : (s.setAcc v).trh = s.trh := rfl
@[simp] theorem setAcc_sp : (s.setAcc v).sp = s.sp := rfl
@[simp] theorem setAcc_pcon : (s.setAcc v).pcon = s.pcon := rfl
@[simp] theorem setAcc_ie : (s.setAcc v).ie = s.ie := rfl
@[simp] theorem setAcc_ip : (s.setAcc v).ip = s.ip := rfl
@[simp] theorem setAcc_ext : (s.setAcc v).ext = s.ext := rfl
@[simp] theorem setAcc_t1lc : (s.setAcc v).t1lc = s.t1lc := rfl
@[simp] theorem setAcc_t1hc : (s.setAcc v).t1hc = s.t1hc := rfl
@[simp] theorem setAcc_fpr : (s.setAcc v).fpr = s.fpr := rfl
@[simp] theorem setAcc_t1 : (s.setAcc v).t1 = s.t1 := rfl
@[simp] theorem setAcc_inService : (s.setAcc v).inService = s.inService := rfl
@[simp] theorem setAcc_latches : (s.setAcc v).latches = s.latches := rfl
@[simp] theorem setAcc_ram : (s.setAcc v).ram = s.ram := rfl
@[simp] theorem setAcc_rom : (s.setAcc v).rom = s.rom := rfl
@[simp] theorem setAcc_flash : (s.setAcc v).flash = s.flash := rfl
@[simp] theorem setAcc_frequency : (s.setAcc v).frequency = s.frequency := rfl
@[simp] theorem setAcc_params : (s.setAcc v).params = s.params := rfl
@[simp] theorem setAcc_env : (s.setAcc v).env = s.env := rfl
@[simp] theorem setAcc_draws : (s.setAcc v).draws = s.draws := rfl
@[simp] theorem setAcc_events : (s.setAcc v).events = s.events := rfl
end setAcc

section setPsw
variable (s : State) (v : Byte)
@[simp] theorem setPsw_pc : (s.setPsw v).pc = s.pc := rfl
@[simp] theorem setPsw_extOld : (s.setPsw v).extOld = s.extOld := rfl
@[simp] theorem setPsw_extNew : (s.setPsw v).extNew = s.extNew := rfl
@[simp] theorem setPsw_run : (s.setPsw v).run = s.run := rfl
@[simp] theorem setPsw_acc : (s.setPsw v).acc = s.acc := rfl
@[simp] theorem setPsw_psw : (s.setPsw v).psw = s.writtenPsw v := rfl
@[simp] theorem setPsw_b : (s.setPsw v).b = s.b := rfl
@[simp] theorem setPsw_c : (s.setPsw v).c = s.c := rfl
@[simp] theorem setPsw_trl : (s.setPsw v).trl = s.trl := rfl
@[simp] theorem setPsw_trh : (s.setPsw v).trh = s.trh := rfl
@[simp] theorem setPsw_sp : (s.setPsw v).sp = s.sp := rfl
@[simp] theorem setPsw_pcon : (s.setPsw v).pcon = s.pcon := rfl
@[simp] theorem setPsw_ie : (s.setPsw v).ie = s.ie := rfl
@[simp] theorem setPsw_ip : (s.setPsw v).ip = s.ip := rfl
@[simp] theorem setPsw_ext : (s.setPsw v).ext = s.ext := rfl
@[simp] theorem setPsw_t1lc : (s.setPsw v).t1lc = s.t1lc := rfl
@[simp] theorem setPsw_t1hc : (s.setPsw v).t1hc = s.t1hc := rfl
@[simp] theorem setPsw_fpr : (s.setPsw v).fpr = s.fpr := rfl
@[simp] theorem setPsw_t1 : (s.setPsw v).t1 = s.t1 := rfl
@[simp] theorem setPsw_inService : (s.setPsw v).inService = s.inService := rfl
@[simp] theorem setPsw_latches : (s.setPsw v).latches = s.latches := rfl
@[simp] theorem setPsw_ram : (s.setPsw v).ram = s.ram := rfl
@[simp] theorem setPsw_rom : (s.setPsw v).rom = s.rom := rfl
@[simp] theorem setPsw_flash : (s.setPsw v).flash = s.flash := rfl
@[simp] theorem setPsw_frequency : (s.setPsw v).frequency = s.frequency := rfl
@[simp] theorem setPsw_params : (s.setPsw v).params = s.params := rfl
@[simp] theorem setPsw_env : (s.setPsw v).env = s.env := rfl
@[simp] theorem setPsw_draws : (s.setPsw v).draws = s.draws := rfl
@[simp] theorem setPsw_events : (s.setPsw v).events = s.events := rfl
end setPsw

section setRam
variable (s : State) (k : Nat) (x v : Byte)
@[simp] theorem setRam_pc : (s.setRam k x v).pc = s.pc := rfl
@[simp] theorem setRam_extOld : (s.setRam k x v).extOld = s.extOld := rfl
@[simp] theorem setRam_extNew : (s.setRam k x v).extNew = s.extNew := rfl
@[simp] theorem setRam_run : (s.setRam k x v).run = s.run := rfl
@[simp] theorem setRam_acc : (s.setRam k x v).acc = s.acc := rfl
@[simp] theorem setRam_psw : (s.setRam k x v).psw = s.psw := rfl
@[simp] theorem setRam_b : (s.setRam k x v).b = s.b := rfl
@[simp] theorem setRam_c : (s.setRam k x v).c = s.c := rfl
@[simp] theorem setRam_trl : (s.setRam k x v).trl = s.trl := rfl
@[simp] theorem setRam_trh : (s.setRam k x v).trh = s.trh := rfl
@[simp] theorem setRam_sp : (s.setRam k x v).sp = s.sp := rfl
@[simp] theorem setRam_pcon : (s.setRam k x v).pcon = s.pcon := rfl
@[simp] theorem setRam_ie : (s.setRam k x v).ie = s.ie := rfl
@[simp] theorem setRam_ip : (s.setRam k x v).ip = s.ip := rfl
@[simp] theorem setRam_ext : (s.setRam k x v).ext = s.ext := rfl
@[simp] theorem setRam_t1lc : (s.setRam k x v).t1lc = s.t1lc := rfl
@[simp] theorem setRam_t1hc : (s.setRam k x v).t1hc = s.t1hc := rfl
@[simp] theorem setRam_fpr : (s.setRam k x v).fpr = s.fpr := rfl
@[simp] theorem setRam_t1 : (s.setRam k x v).t1 = s.t1 := rfl
@[simp] theorem setRam_inService : (s.setRam k x v).inService = s.inService := rfl
@[simp] theorem setRam_latches : (s.setRam k x v).latches = s.latches := rfl
@[simp] theorem setRam_ram : (s.setRam k x v).ram = Memory.write s.ram (ramKey k x) v := rfl
@[simp] theorem setRam_rom : (s.setRam k x v).rom = s.rom := rfl
@[simp] theorem setRam_flash : (s.setRam k x v).flash = s.flash := rfl
@[simp] theorem setRam_frequency : (s.setRam k x v).frequency = s.frequency := rfl
@[simp] theorem setRam_params : (s.setRam k x v).params = s.params := rfl
@[simp] theorem setRam_env : (s.setRam k x v).env = s.env := rfl
@[simp] theorem setRam_draws : (s.setRam k x v).draws = s.draws := rfl
@[simp] theorem setRam_events : (s.setRam k x v).events = s.events := rfl
end setRam

section jump
variable (s : State) (t : CodeAddr)
@[simp] theorem jump_pc : (s.jump t).pc = t := rfl
@[simp] theorem jump_extOld : (s.jump t).extOld = s.extOld := rfl
@[simp] theorem jump_extNew : (s.jump t).extNew = s.extNew := rfl
@[simp] theorem jump_run : (s.jump t).run = s.run := rfl
@[simp] theorem jump_acc : (s.jump t).acc = s.acc := rfl
@[simp] theorem jump_psw : (s.jump t).psw = s.psw := rfl
@[simp] theorem jump_b : (s.jump t).b = s.b := rfl
@[simp] theorem jump_c : (s.jump t).c = s.c := rfl
@[simp] theorem jump_trl : (s.jump t).trl = s.trl := rfl
@[simp] theorem jump_trh : (s.jump t).trh = s.trh := rfl
@[simp] theorem jump_sp : (s.jump t).sp = s.sp := rfl
@[simp] theorem jump_pcon : (s.jump t).pcon = s.pcon := rfl
@[simp] theorem jump_ie : (s.jump t).ie = s.ie := rfl
@[simp] theorem jump_ip : (s.jump t).ip = s.ip := rfl
@[simp] theorem jump_ext : (s.jump t).ext = s.ext := rfl
@[simp] theorem jump_t1lc : (s.jump t).t1lc = s.t1lc := rfl
@[simp] theorem jump_t1hc : (s.jump t).t1hc = s.t1hc := rfl
@[simp] theorem jump_fpr : (s.jump t).fpr = s.fpr := rfl
@[simp] theorem jump_t1 : (s.jump t).t1 = s.t1 := rfl
@[simp] theorem jump_inService : (s.jump t).inService = s.inService := rfl
@[simp] theorem jump_latches : (s.jump t).latches = s.latches := rfl
@[simp] theorem jump_ram : (s.jump t).ram = s.ram := rfl
@[simp] theorem jump_rom : (s.jump t).rom = s.rom := rfl
@[simp] theorem jump_flash : (s.jump t).flash = s.flash := rfl
@[simp] theorem jump_frequency : (s.jump t).frequency = s.frequency := rfl
@[simp] theorem jump_params : (s.jump t).params = s.params := rfl
@[simp] theorem jump_env : (s.jump t).env = s.env := rfl
@[simp] theorem jump_draws : (s.jump t).draws = s.draws := rfl
@[simp] theorem jump_events : (s.jump t).events = s.events := rfl
end jump

section advance
variable (s : State) (n : Nat)
@[simp] theorem advance_pc : (s.advance n).pc = s.next n := rfl
@[simp] theorem advance_extOld : (s.advance n).extOld = s.extOld := rfl
@[simp] theorem advance_extNew : (s.advance n).extNew = s.extNew := rfl
@[simp] theorem advance_run : (s.advance n).run = s.run := rfl
@[simp] theorem advance_acc : (s.advance n).acc = s.acc := rfl
@[simp] theorem advance_psw : (s.advance n).psw = s.psw := rfl
@[simp] theorem advance_b : (s.advance n).b = s.b := rfl
@[simp] theorem advance_c : (s.advance n).c = s.c := rfl
@[simp] theorem advance_trl : (s.advance n).trl = s.trl := rfl
@[simp] theorem advance_trh : (s.advance n).trh = s.trh := rfl
@[simp] theorem advance_sp : (s.advance n).sp = s.sp := rfl
@[simp] theorem advance_pcon : (s.advance n).pcon = s.pcon := rfl
@[simp] theorem advance_ie : (s.advance n).ie = s.ie := rfl
@[simp] theorem advance_ip : (s.advance n).ip = s.ip := rfl
@[simp] theorem advance_ext : (s.advance n).ext = s.ext := rfl
@[simp] theorem advance_t1lc : (s.advance n).t1lc = s.t1lc := rfl
@[simp] theorem advance_t1hc : (s.advance n).t1hc = s.t1hc := rfl
@[simp] theorem advance_fpr : (s.advance n).fpr = s.fpr := rfl
@[simp] theorem advance_t1 : (s.advance n).t1 = s.t1 := rfl
@[simp] theorem advance_inService : (s.advance n).inService = s.inService := rfl
@[simp] theorem advance_latches : (s.advance n).latches = s.latches := rfl
@[simp] theorem advance_ram : (s.advance n).ram = s.ram := rfl
@[simp] theorem advance_rom : (s.advance n).rom = s.rom := rfl
@[simp] theorem advance_flash : (s.advance n).flash = s.flash := rfl
@[simp] theorem advance_frequency : (s.advance n).frequency = s.frequency := rfl
@[simp] theorem advance_params : (s.advance n).params = s.params := rfl
@[simp] theorem advance_env : (s.advance n).env = s.env := rfl
@[simp] theorem advance_draws : (s.advance n).draws = s.draws := rfl
@[simp] theorem advance_events : (s.advance n).events = s.events := rfl
end advance

section incSp
variable (s : State)
@[simp] theorem incSp_pc : (s.incSp).pc = s.pc := rfl
@[simp] theorem incSp_extOld : (s.incSp).extOld = s.extOld := rfl
@[simp] theorem incSp_extNew : (s.incSp).extNew = s.extNew := rfl
@[simp] theorem incSp_run : (s.incSp).run = s.run := rfl
@[simp] theorem incSp_acc : (s.incSp).acc = s.acc := rfl
@[simp] theorem incSp_psw : (s.incSp).psw = s.psw := rfl
@[simp] theorem incSp_b : (s.incSp).b = s.b := rfl
@[simp] theorem incSp_c : (s.incSp).c = s.c := rfl
@[simp] theorem incSp_trl : (s.incSp).trl = s.trl := rfl
@[simp] theorem incSp_trh : (s.incSp).trh = s.trh := rfl
@[simp] theorem incSp_sp : (s.incSp).sp = s.sp + 1 := rfl
@[simp] theorem incSp_pcon : (s.incSp).pcon = s.pcon := rfl
@[simp] theorem incSp_ie : (s.incSp).ie = s.ie := rfl
@[simp] theorem incSp_ip : (s.incSp).ip = s.ip := rfl
@[simp] theorem incSp_ext : (s.incSp).ext = s.ext := rfl
@[simp] theorem incSp_t1lc : (s.incSp).t1lc = s.t1lc := rfl
@[simp] theorem incSp_t1hc : (s.incSp).t1hc = s.t1hc := rfl
@[simp] theorem incSp_fpr : (s.incSp).fpr = s.fpr := rfl
@[simp] theorem incSp_t1 : (s.incSp).t1 = s.t1 := rfl
@[simp] theorem incSp_inService : (s.incSp).inService = s.inService := rfl
@[simp] theorem incSp_latches : (s.incSp).latches = s.latches := rfl
@[simp] theorem incSp_ram : (s.incSp).ram = s.ram := rfl
@[simp] theorem incSp_rom : (s.incSp).rom = s.rom := rfl
@[simp] theorem incSp_flash : (s.incSp).flash = s.flash := rfl
@[simp] theorem incSp_frequency : (s.incSp).frequency = s.frequency := rfl
@[simp] theorem incSp_params : (s.incSp).params = s.params := rfl
@[simp] theorem incSp_env : (s.incSp).env = s.env := rfl
@[simp] theorem incSp_draws : (s.incSp).draws = s.draws := rfl
@[simp] theorem incSp_events : (s.incSp).events = s.events := rfl
end incSp

section decSp
variable (s : State)
@[simp] theorem decSp_pc : (s.decSp).pc = s.pc := rfl
@[simp] theorem decSp_extOld : (s.decSp).extOld = s.extOld := rfl
@[simp] theorem decSp_extNew : (s.decSp).extNew = s.extNew := rfl
@[simp] theorem decSp_run : (s.decSp).run = s.run := rfl
@[simp] theorem decSp_acc : (s.decSp).acc = s.acc := rfl
@[simp] theorem decSp_psw : (s.decSp).psw = s.psw := rfl
@[simp] theorem decSp_b : (s.decSp).b = s.b := rfl
@[simp] theorem decSp_c : (s.decSp).c = s.c := rfl
@[simp] theorem decSp_trl : (s.decSp).trl = s.trl := rfl
@[simp] theorem decSp_trh : (s.decSp).trh = s.trh := rfl
@[simp] theorem decSp_sp : (s.decSp).sp = s.sp - 1 := rfl
@[simp] theorem decSp_pcon : (s.decSp).pcon = s.pcon := rfl
@[simp] theorem decSp_ie : (s.decSp).ie = s.ie := rfl
@[simp] theorem decSp_ip : (s.decSp).ip = s.ip := rfl
@[simp] theorem decSp_ext : (s.decSp).ext = s.ext := rfl
@[simp] theorem decSp_t1lc : (s.decSp).t1lc = s.t1lc := rfl
@[simp] theorem decSp_t1hc : (s.decSp).t1hc = s.t1hc := rfl
@[simp] theorem decSp_fpr : (s.decSp).fpr = s.fpr := rfl
@[simp] theorem decSp_t1 : (s.decSp).t1 = s.t1 := rfl
@[simp] theorem decSp_inService : (s.decSp).inService = s.inService := rfl
@[simp] theorem decSp_latches : (s.decSp).latches = s.latches := rfl
@[simp] theorem decSp_ram : (s.decSp).ram = s.ram := rfl
@[simp] theorem decSp_rom : (s.decSp).rom = s.rom := rfl
@[simp] theorem decSp_flash : (s.decSp).flash = s.flash := rfl
@[simp] theorem decSp_frequency : (s.decSp).frequency = s.frequency := rfl
@[simp] theorem decSp_params : (s.decSp).params = s.params := rfl
@[simp] theorem decSp_env : (s.decSp).env = s.env := rfl
@[simp] theorem decSp_draws : (s.decSp).draws = s.draws := rfl
@[simp] theorem decSp_events : (s.decSp).events = s.events := rfl
end decSp

section draw
variable (s : State) (n : Nat)
@[simp] theorem draw_pc : (s.draw n).pc = s.pc := rfl
@[simp] theorem draw_extOld : (s.draw n).extOld = s.extOld := rfl
@[simp] theorem draw_extNew : (s.draw n).extNew = s.extNew := rfl
@[simp] theorem draw_run : (s.draw n).run = s.run := rfl
@[simp] theorem draw_acc : (s.draw n).acc = s.acc := rfl
@[simp] theorem draw_psw : (s.draw n).psw = s.psw := rfl
@[simp] theorem draw_b : (s.draw n).b = s.b := rfl
@[simp] theorem draw_c : (s.draw n).c = s.c := rfl
@[simp] theorem draw_trl : (s.draw n).trl = s.trl := rfl
@[simp] theorem draw_trh : (s.draw n).trh = s.trh := rfl
@[simp] theorem draw_sp : (s.draw n).sp = s.sp := rfl
@[simp] theorem draw_pcon : (s.draw n).pcon = s.pcon := rfl
@[simp] theorem draw_ie : (s.draw n).ie = s.ie := rfl
@[simp] theorem draw_ip : (s.draw n).ip = s.ip := rfl
@[simp] theorem draw_ext : (s.draw n).ext = s.ext := rfl
@[simp] theorem draw_t1lc : (s.draw n).t1lc = s.t1lc := rfl
@[simp] theorem draw_t1hc : (s.draw n).t1hc = s.t1hc := rfl
@[simp] theorem draw_fpr : (s.draw n).fpr = s.fpr := rfl
@[simp] theorem draw_t1 : (s.draw n).t1 = s.t1 := rfl
@[simp] theorem draw_inService : (s.draw n).inService = s.inService := rfl
@[simp] theorem draw_latches : (s.draw n).latches = s.latches := rfl
@[simp] theorem draw_ram : (s.draw n).ram = s.ram := rfl
@[simp] theorem draw_rom : (s.draw n).rom = s.rom := rfl
@[simp] theorem draw_flash : (s.draw n).flash = s.flash := rfl
@[simp] theorem draw_frequency : (s.draw n).frequency = s.frequency := rfl
@[simp] theorem draw_params : (s.draw n).params = s.params := rfl
@[simp] theorem draw_env : (s.draw n).env = s.env := rfl
@[simp] theorem draw_draws : (s.draw n).draws = s.draws + n := rfl
@[simp] theorem draw_events : (s.draw n).events = s.events := rfl
end draw

section begin
variable (s : State)
@[simp] theorem begin_pc : (s.begin).pc = s.pc := rfl
@[simp] theorem begin_extOld : (s.begin).extOld = s.extNew := rfl
@[simp] theorem begin_extNew : (s.begin).extNew = Bank.ofExt s.ext := rfl
@[simp] theorem begin_run : (s.begin).run = .started := rfl
@[simp] theorem begin_acc : (s.begin).acc = s.acc := rfl
@[simp] theorem begin_psw : (s.begin).psw = s.psw := rfl
@[simp] theorem begin_b : (s.begin).b = s.b := rfl
@[simp] theorem begin_c : (s.begin).c = s.c := rfl
@[simp] theorem begin_trl : (s.begin).trl = s.trl := rfl
@[simp] theorem begin_trh : (s.begin).trh = s.trh := rfl
@[simp] theorem begin_sp : (s.begin).sp = s.sp := rfl
@[simp] theorem begin_pcon : (s.begin).pcon = s.pcon := rfl
@[simp] theorem begin_ie : (s.begin).ie = s.ie := rfl
@[simp] theorem begin_ip : (s.begin).ip = s.ip := rfl
@[simp] theorem begin_ext : (s.begin).ext = s.ext := rfl
@[simp] theorem begin_t1lc : (s.begin).t1lc = s.t1lc := rfl
@[simp] theorem begin_t1hc : (s.begin).t1hc = s.t1hc := rfl
@[simp] theorem begin_fpr : (s.begin).fpr = s.fpr := rfl
@[simp] theorem begin_t1 : (s.begin).t1 = s.t1 := rfl
@[simp] theorem begin_inService : (s.begin).inService = s.inService := rfl
@[simp] theorem begin_latches : (s.begin).latches = s.latches := rfl
@[simp] theorem begin_ram : (s.begin).ram = s.ram := rfl
@[simp] theorem begin_rom : (s.begin).rom = s.rom := rfl
@[simp] theorem begin_flash : (s.begin).flash = s.flash := rfl
@[simp] theorem begin_frequency : (s.begin).frequency = s.frequency := rfl
@[simp] theorem begin_params : (s.begin).params = s.params := rfl
@[simp] theorem begin_env : (s.begin).env = s.env := rfl
@[simp] theorem begin_draws : (s.begin).draws = s.draws := rfl
@[simp] theorem begin_events : (s.begin).events = s.events := rfl
end begin

section boundary
variable (s : State)
@[simp] theorem boundary_pc : (s.boundary).pc = s.pc := rfl
@[simp] theorem boundary_extOld : (s.boundary).extOld = s.extOld := rfl
@[simp] theorem boundary_extNew : (s.boundary).extNew = s.extNew := rfl
@[simp] theorem boundary_run : (s.boundary).run = s.run := rfl
@[simp] theorem boundary_acc : (s.boundary).acc = s.acc := rfl
@[simp] theorem boundary_psw : (s.boundary).psw = s.psw := rfl
@[simp] theorem boundary_b : (s.boundary).b = s.b := rfl
@[simp] theorem boundary_c : (s.boundary).c = s.c := rfl
@[simp] theorem boundary_trl : (s.boundary).trl = s.trl := rfl
@[simp] theorem boundary_trh : (s.boundary).trh = s.trh := rfl
@[simp] theorem boundary_sp : (s.boundary).sp = s.sp := rfl
@[simp] theorem boundary_pcon : (s.boundary).pcon = s.pcon := rfl
@[simp] theorem boundary_ie : (s.boundary).ie = s.ie := rfl
@[simp] theorem boundary_ip : (s.boundary).ip = s.ip := rfl
@[simp] theorem boundary_ext : (s.boundary).ext = s.ext := rfl
@[simp] theorem boundary_t1lc : (s.boundary).t1lc = s.t1lc := rfl
@[simp] theorem boundary_t1hc : (s.boundary).t1hc = s.t1hc := rfl
@[simp] theorem boundary_fpr : (s.boundary).fpr = s.fpr := rfl
@[simp] theorem boundary_t1 : (s.boundary).t1 = s.t1 := rfl
@[simp] theorem boundary_inService : (s.boundary).inService = s.inService := rfl
@[simp] theorem boundary_latches : (s.boundary).latches = s.latches.setAll (s.env.headD []) := rfl
@[simp] theorem boundary_ram : (s.boundary).ram = s.ram := rfl
@[simp] theorem boundary_rom : (s.boundary).rom = s.rom := rfl
@[simp] theorem boundary_flash : (s.boundary).flash = s.flash := rfl
@[simp] theorem boundary_frequency : (s.boundary).frequency = s.frequency := rfl
@[simp] theorem boundary_params : (s.boundary).params = s.params := rfl
@[simp] theorem boundary_env : (s.boundary).env = s.env.tail := rfl
@[simp] theorem boundary_draws : (s.boundary).draws = s.draws := rfl
@[simp] theorem boundary_events : (s.boundary).events = s.events := rfl
end boundary

section ticks
variable (s : State) (n : Nat)
@[simp] theorem ticks_pc : (s.ticks n).pc = s.pc := rfl
@[simp] theorem ticks_extOld : (s.ticks n).extOld = s.extOld := rfl
@[simp] theorem ticks_extNew : (s.ticks n).extNew = s.extNew := rfl
@[simp] theorem ticks_run : (s.ticks n).run = s.run := rfl
@[simp] theorem ticks_acc : (s.ticks n).acc = s.acc := rfl
@[simp] theorem ticks_psw : (s.ticks n).psw = s.psw := rfl
@[simp] theorem ticks_b : (s.ticks n).b = s.b := rfl
@[simp] theorem ticks_c : (s.ticks n).c = s.c := rfl
@[simp] theorem ticks_trl : (s.ticks n).trl = s.trl := rfl
@[simp] theorem ticks_trh : (s.ticks n).trh = s.trh := rfl
@[simp] theorem ticks_sp : (s.ticks n).sp = s.sp := rfl
@[simp] theorem ticks_pcon : (s.ticks n).pcon = s.pcon := rfl
@[simp] theorem ticks_ie : (s.ticks n).ie = s.ie := rfl
@[simp] theorem ticks_ip : (s.ticks n).ip = s.ip := rfl
@[simp] theorem ticks_ext : (s.ticks n).ext = s.ext := rfl
@[simp] theorem ticks_t1lc : (s.ticks n).t1lc = s.t1lc := rfl
@[simp] theorem ticks_t1hc : (s.ticks n).t1hc = s.t1hc := rfl
@[simp] theorem ticks_fpr : (s.ticks n).fpr = s.fpr := rfl
@[simp] theorem ticks_t1 : (s.ticks n).t1 = (State.tickN n s).t1 := rfl
@[simp] theorem ticks_inService : (s.ticks n).inService = s.inService := rfl
@[simp] theorem ticks_latches : (s.ticks n).latches = (State.tickN n s).latches := rfl
@[simp] theorem ticks_ram : (s.ticks n).ram = s.ram := rfl
@[simp] theorem ticks_rom : (s.ticks n).rom = s.rom := rfl
@[simp] theorem ticks_flash : (s.ticks n).flash = s.flash := rfl
@[simp] theorem ticks_frequency : (s.ticks n).frequency = s.frequency := rfl
@[simp] theorem ticks_params : (s.ticks n).params = s.params := rfl
@[simp] theorem ticks_env : (s.ticks n).env = s.env := rfl
@[simp] theorem ticks_draws : (s.ticks n).draws = (State.tickN n s).draws := rfl
@[simp] theorem ticks_events : (s.ticks n).events = (State.tickN n s).events := rfl
end ticks

section push
variable (s : State) (v : Byte)
@[simp] theorem push_pc : (s.push v).pc = s.pc := rfl
@[simp] theorem push_extOld : (s.push v).extOld = s.extOld := rfl
@[simp] theorem push_extNew : (s.push v).extNew = s.extNew := rfl
@[simp] theorem push_run : (s.push v).run = s.run := rfl
@[simp] theorem push_acc : (s.push v).acc = s.acc := rfl
@[simp] theorem push_psw : (s.push v).psw = s.psw := rfl
@[simp] theorem push_b : (s.push v).b = s.b := rfl
@[simp] theorem push_c : (s.push v).c = s.c := rfl
@[simp] theorem push_trl : (s.push v).trl = s.trl := rfl
@[simp] theorem push_trh : (s.push v).trh = s.trh := rfl
@[simp] theorem push_sp : (s.push v).sp = s.sp + 1 := rfl
@[simp] theorem push_pcon : (s.push v).pcon = s.pcon := rfl
@[simp] theorem push_ie : (s.push v).ie = s.ie := rfl
@[simp] theorem push_ip : (s.push v).ip = s.ip := rfl
@[simp] theorem push_ext : (s.push v).ext = s.ext := rfl
@[simp] theorem push_t1lc : (s.push v).t1lc = s.t1lc := rfl
@[simp] theorem push_t1hc : (s.push v).t1hc = s.t1hc := rfl
@[simp] theorem push_fpr : (s.push v).fpr = s.fpr := rfl
@[simp] theorem push_t1 : (s.push v).t1 = s.t1 := rfl
@[simp] theorem push_inService : (s.push v).inService = s.inService := rfl
@[simp] theorem push_latches : (s.push v).latches = s.latches := rfl
@[simp] theorem push_ram : (s.push v).ram = Memory.write s.ram (ramKey 0 (s.sp + 1)) v := rfl
@[simp] theorem push_rom : (s.push v).rom = s.rom := rfl
@[simp] theorem push_flash : (s.push v).flash = s.flash := rfl
@[simp] theorem push_frequency : (s.push v).frequency = s.frequency := rfl
@[simp] theorem push_params : (s.push v).params = s.params := rfl
@[simp] theorem push_env : (s.push v).env = s.env := rfl
@[simp] theorem push_draws : (s.push v).draws = s.draws := rfl
@[simp] theorem push_events : (s.push v).events = s.events := rfl
end push

section clearLatch
variable (s : State) (src : Source)
@[simp] theorem clearLatch_pc : (s.clearLatch src).pc = s.pc := rfl
@[simp] theorem clearLatch_extOld : (s.clearLatch src).extOld = s.extOld := rfl
@[simp] theorem clearLatch_extNew : (s.clearLatch src).extNew = s.extNew := rfl
@[simp] theorem clearLatch_run : (s.clearLatch src).run = s.run := rfl
@[simp] theorem clearLatch_acc : (s.clearLatch src).acc = s.acc := rfl
@[simp] theorem clearLatch_psw : (s.clearLatch src).psw = s.psw := rfl
@[simp] theorem clearLatch_b : (s.clearLatch src).b = s.b := rfl
@[simp] theorem clearLatch_c : (s.clearLatch src).c = s.c := rfl
@[simp] theorem clearLatch_trl : (s.clearLatch src).trl = s.trl := rfl
@[simp] theorem clearLatch_trh : (s.clearLatch src).trh = s.trh := rfl
@[simp] theorem clearLatch_sp : (s.clearLatch src).sp = s.sp := rfl
@[simp] theorem clearLatch_pcon : (s.clearLatch src).pcon = s.pcon := rfl
@[simp] theorem clearLatch_ie : (s.clearLatch src).ie = s.ie := rfl
@[simp] theorem clearLatch_ip : (s.clearLatch src).ip = s.ip := rfl
@[simp] theorem clearLatch_ext : (s.clearLatch src).ext = s.ext := rfl
@[simp] theorem clearLatch_t1lc : (s.clearLatch src).t1lc = s.t1lc := rfl
@[simp] theorem clearLatch_t1hc : (s.clearLatch src).t1hc = s.t1hc := rfl
@[simp] theorem clearLatch_fpr : (s.clearLatch src).fpr = s.fpr := rfl
@[simp] theorem clearLatch_t1 : (s.clearLatch src).t1 = s.t1 := rfl
@[simp] theorem clearLatch_inService : (s.clearLatch src).inService = s.inService := rfl
@[simp] theorem clearLatch_latches : (s.clearLatch src).latches = s.latches.clear src := rfl
@[simp] theorem clearLatch_ram : (s.clearLatch src).ram = s.ram := rfl
@[simp] theorem clearLatch_rom : (s.clearLatch src).rom = s.rom := rfl
@[simp] theorem clearLatch_flash : (s.clearLatch src).flash = s.flash := rfl
@[simp] theorem clearLatch_frequency : (s.clearLatch src).frequency = s.frequency := rfl
@[simp] theorem clearLatch_params : (s.clearLatch src).params = s.params := rfl
@[simp] theorem clearLatch_env : (s.clearLatch src).env = s.env := rfl
@[simp] theorem clearLatch_draws : (s.clearLatch src).draws = s.draws := rfl
@[simp] theorem clearLatch_events : (s.clearLatch src).events = s.events := rfl
end clearLatch

section pushService
variable (s : State) (src : Source)
@[simp] theorem pushService_pc : (s.pushService src).pc = s.pc := rfl
@[simp] theorem pushService_extOld : (s.pushService src).extOld = s.extOld := rfl
@[simp] theorem pushService_extNew : (s.pushService src).extNew = s.extNew := rfl
@[simp] theorem pushService_run : (s.pushService src).run = s.run := rfl
@[simp] theorem pushService_acc : (s.pushService src).acc = s.acc := rfl
@[simp] theorem pushService_psw : (s.pushService src).psw = s.psw := rfl
@[simp] theorem pushService_b : (s.pushService src).b = s.b := rfl
@[simp] theorem pushService_c : (s.pushService src).c = s.c := rfl
@[simp] theorem pushService_trl : (s.pushService src).trl = s.trl := rfl
@[simp] theorem pushService_trh : (s.pushService src).trh = s.trh := rfl
@[simp] theorem pushService_sp : (s.pushService src).sp = s.sp := rfl
@[simp] theorem pushService_pcon : (s.pushService src).pcon = s.pcon := rfl
@[simp] theorem pushService_ie : (s.pushService src).ie = s.ie := rfl
@[simp] theorem pushService_ip : (s.pushService src).ip = s.ip := rfl
@[simp] theorem pushService_ext : (s.pushService src).ext = s.ext := rfl
@[simp] theorem pushService_t1lc : (s.pushService src).t1lc = s.t1lc := rfl
@[simp] theorem pushService_t1hc : (s.pushService src).t1hc = s.t1hc := rfl
@[simp] theorem pushService_fpr : (s.pushService src).fpr = s.fpr := rfl
@[simp] theorem pushService_t1 : (s.pushService src).t1 = s.t1 := rfl
@[simp] theorem pushService_inService : (s.pushService src).inService = s.inService ++ [src] := rfl
@[simp] theorem pushService_latches : (s.pushService src).latches = s.latches := rfl
@[simp] theorem pushService_ram : (s.pushService src).ram = s.ram := rfl
@[simp] theorem pushService_rom : (s.pushService src).rom = s.rom := rfl
@[simp] theorem pushService_flash : (s.pushService src).flash = s.flash := rfl
@[simp] theorem pushService_frequency : (s.pushService src).frequency = s.frequency := rfl
@[simp] theorem pushService_params : (s.pushService src).params = s.params := rfl
@[simp] theorem pushService_env : (s.pushService src).env = s.env := rfl
@[simp] theorem pushService_draws : (s.pushService src).draws = s.draws := rfl
@[simp] theorem pushService_events : (s.pushService src).events = s.events := rfl
end pushService

section popService
variable (s : State)
@[simp] theorem popService_pc : (s.popService).pc = s.pc := rfl
@[simp] theorem popService_extOld : (s.popService).extOld = s.extOld := rfl
@[simp] theorem popService_extNew : (s.popService).extNew = s.extNew := rfl
@[simp] theorem popService_run : (s.popService).run = s.run := rfl
@[simp] theorem popService_acc : (s.popService).acc = s.acc := rfl
@[simp] theorem popService_psw : (s.popService).psw = s.psw := rfl
@[simp] theorem popService_b : (s.popService).b = s.b := rfl
@[simp] theorem popService_c : (s.popService).c = s.c := rfl
@[simp] theorem popService_trl : (s.popService).trl = s.trl := rfl
@[simp] theorem popService_trh : (s.popService).trh = s.trh := rfl
@[simp] theorem popService_sp : (s.popService).sp = s.sp := rfl
@[simp] theorem popService_pcon : (s.popService).pcon = s.pcon := rfl
@[simp] theorem popService_ie : (s.popService).ie = s.ie := rfl
@[simp] theorem popService_ip : (s.popService).ip = s.ip := rfl
@[simp] theorem popService_ext : (s.popService).ext = s.ext := rfl
@[simp] theorem popService_t1lc : (s.popService).t1lc = s.t1lc := rfl
@[simp] theorem popService_t1hc : (s.popService).t1hc = s.t1hc := rfl
@[simp] theorem popService_fpr : (s.popService).fpr = s.fpr := rfl
@[simp] theorem popService_t1 : (s.popService).t1 = s.t1 := rfl
@[simp] theorem popService_inService : (s.popService).inService = s.inService.dropLast := rfl
@[simp] theorem popService_latches : (s.popService).latches = s.latches := rfl
@[simp] theorem popService_ram : (s.popService).ram = s.ram := rfl
@[simp] theorem popService_rom : (s.popService).rom = s.rom := rfl
@[simp] theorem popService_flash : (s.popService).flash = s.flash := rfl
@[simp] theorem popService_frequency : (s.popService).frequency = s.frequency := rfl
@[simp] theorem popService_params : (s.popService).params = s.params := rfl
@[simp] theorem popService_env : (s.popService).env = s.env := rfl
@[simp] theorem popService_draws : (s.popService).draws = s.draws := rfl
@[simp] theorem popService_events : (s.popService).events = s.events := rfl
end popService

section wake
variable (s : State)
@[simp] theorem wake_pc : (s.wake).pc = s.pc := rfl
@[simp] theorem wake_extOld : (s.wake).extOld = s.extOld := rfl
@[simp] theorem wake_extNew : (s.wake).extNew = s.extNew := rfl
@[simp] theorem wake_run : (s.wake).run = s.run := rfl
@[simp] theorem wake_acc : (s.wake).acc = s.acc := rfl
@[simp] theorem wake_psw : (s.wake).psw = s.psw := rfl
@[simp] theorem wake_b : (s.wake).b = s.b := rfl
@[simp] theorem wake_c : (s.wake).c = s.c := rfl
@[simp] theorem wake_trl : (s.wake).trl = s.trl := rfl
@[simp] theorem wake_trh : (s.wake).trh = s.trh := rfl
@[simp] theorem wake_sp : (s.wake).sp = s.sp := rfl
@[simp] theorem wake_pcon : (s.wake).pcon = s.wokenPcon := rfl
@[simp] theorem wake_ie : (s.wake).ie = s.ie := rfl
@[simp] theorem wake_ip : (s.wake).ip = s.ip := rfl
@[simp] theorem wake_ext : (s.wake).ext = s.ext := rfl
@[simp] theorem wake_t1lc : (s.wake).t1lc = s.t1lc := rfl
@[simp] theorem wake_t1hc : (s.wake).t1hc = s.t1hc := rfl
@[simp] theorem wake_fpr : (s.wake).fpr = s.fpr := rfl
@[simp] theorem wake_t1 : (s.wake).t1 = s.t1 := rfl
@[simp] theorem wake_inService : (s.wake).inService = s.inService := rfl
@[simp] theorem wake_latches : (s.wake).latches = s.latches := rfl
@[simp] theorem wake_ram : (s.wake).ram = s.ram := rfl
@[simp] theorem wake_rom : (s.wake).rom = s.rom := rfl
@[simp] theorem wake_flash : (s.wake).flash = s.flash := rfl
@[simp] theorem wake_frequency : (s.wake).frequency = s.frequency := rfl
@[simp] theorem wake_params : (s.wake).params = s.params := rfl
@[simp] theorem wake_env : (s.wake).env = s.env := rfl
@[simp] theorem wake_draws : (s.wake).draws = s.draws := rfl
@[simp] theorem wake_events : (s.wake).events = s.events := rfl
end wake

end Sys2Proof.Machine
end

