-- ==== Sys2Proof/Laws/Ops.lean ====
section
/-! SUPPORT. What the shared operations can do, said once: reads and writes of RAM and of the data space, the stack, and interrupt
entry and return. -/

namespace Sys2Proof.Machine

/-! ## RAM -/

theorem ramKey_inj {k k' : Nat} {x x' : Byte} (h : ramKey k x = ramKey k' x') : k = k' ∧ x = x' := by
  have hx := x.isLt
  have hx' := x'.isLt
  unfold ramKey at h
  exact ⟨by omega, BitVec.eq_of_toNat_eq (by omega)⟩

/-- Reading RAM after a write of one of its bytes. -/
theorem ramByte_setRam (s : State) (k k' : Nat) (x x' v : Byte) :
    (s.setRam k x v).ramByte k' x' = if k' = k ∧ x' = x then v else s.ramByte k' x' := by
  unfold State.ramByte
  rw [setRam_ram, read_write]
  by_cases h : k' = k ∧ x' = x
  · simp [h]
  · rw [if_neg h, if_neg]
    intro he
    exact h ⟨(ramKey_inj he).1.symm, (ramKey_inj he).2.symm⟩

theorem ramWritten_setRam (s : State) (k : Nat) (x v : Byte) : RamWritten s (s.setRam k x v) k x v :=
  ⟨fun k' y => ramByte_setRam s k k' x y v, rfl⟩

theorem ramBank_le (s : State) : s.ramBank ≤ 1 := by
  unfold State.ramBank
  split <;> omega

/-! ## The data space -/

/-- A write to the data space is one of three things: a RAM byte, a block-owned cell, an output event. -/
theorem dataWritten_store (s : State) (a : DataAddr) (v : Byte) : DataWritten s (s.store a v) a v := by
  cases h : dataCell a <;> simp only [DataWritten, State.store, h]
  exact ramWritten_setRam ..

/-- A read of the data space changes nothing but the draws and the events. -/
theorem afterRead_eq (s : State) (a : DataAddr) :
    s.afterRead a = { s with draws := (s.afterRead a).draws, events := (s.afterRead a).events } := by
  unfold State.afterRead
  split <;> rfl

/-- A read of anything but a device changes nothing. -/
theorem afterRead_of_not_device (s : State) (a : DataAddr) (h : dataCell a ≠ .device) : s.afterRead a = s := by
  unfold State.afterRead
  split <;> simp_all

@[simp] theorem afterRead_pc (s : State) (a : DataAddr) : (s.afterRead a).pc = s.pc := by
  unfold State.afterRead; split <;> rfl

@[simp] theorem afterRead_extOld (s : State) (a : DataAddr) : (s.afterRead a).extOld = s.extOld := by
  unfold State.afterRead; split <;> rfl

@[simp] theorem afterRead_extNew (s : State) (a : DataAddr) : (s.afterRead a).extNew = s.extNew := by
  unfold State.afterRead; split <;> rfl

@[simp] theorem afterRead_run (s : State) (a : DataAddr) : (s.afterRead a).run = s.run := by
  unfold State.afterRead; split <;> rfl

@[simp] theorem afterRead_acc (s : State) (a : DataAddr) : (s.afterRead a).acc = s.acc := by
  unfold State.afterRead; split <;> rfl

@[simp] theorem afterRead_psw (s : State) (a : DataAddr) : (s.afterRead a).psw = s.psw := by
  unfold State.afterRead; split <;> rfl

@[simp] theorem afterRead_b (s : State) (a : DataAddr) : (s.afterRead a).b = s.b := by
  unfold State.afterRead; split <;> rfl

@[simp] theorem afterRead_c (s : State) (a : DataAddr) : (s.afterRead a).c = s.c := by
  unfold State.afterRead; split <;> rfl

@[simp] theorem afterRead_trl (s : State) (a : DataAddr) : (s.afterRead a).trl = s.trl := by
  unfold State.afterRead; split <;> rfl

@[simp] theorem afterRead_trh (s : State) (a : DataAddr) : (s.afterRead a).trh = s.trh := by
  unfold State.afterRead; split <;> rfl

@[simp] theorem afterRead_sp (s : State) (a : DataAddr) : (s.afterRead a).sp = s.sp := by
  unfold State.afterRead; split <;> rfl

@[simp] theorem afterRead_pcon (s : State) (a : DataAddr) : (s.afterRead a).pcon = s.pcon := by
  unfold State.afterRead; split <;> rfl

@[simp] theorem afterRead_ie (s : State) (a : DataAddr) : (s.afterRead a).ie = s.ie := by
  unfold State.afterRead; split <;> rfl

@[simp] theorem afterRead_ip (s : State) (a : DataAddr) : (s.afterRead a).ip = s.ip := by
  unfold State.afterRead; split <;> rfl

@[simp] theorem afterRead_ext (s : State) (a : DataAddr) : (s.afterRead a).ext = s.ext := by
  unfold State.afterRead; split <;> rfl

@[simp] theorem afterRead_t1lc (s : State) (a : DataAddr) : (s.afterRead a).t1lc = s.t1lc := by
  unfold State.afterRead; split <;> rfl

@[simp] theorem afterRead_t1hc (s : State) (a : DataAddr) : (s.afterRead a).t1hc = s.t1hc := by
  unfold State.afterRead; split <;> rfl

@[simp] theorem afterRead_fpr (s : State) (a : DataAddr) : (s.afterRead a).fpr = s.fpr := by
  unfold State.afterRead; split <;> rfl

@[simp] theorem afterRead_t1 (s : State) (a : DataAddr) : (s.afterRead a).t1 = s.t1 := by
  unfold State.afterRead; split <;> rfl

@[simp] theorem afterRead_inService (s : State) (a : DataAddr) : (s.afterRead a).inService = s.inService := by
  unfold State.afterRead; split <;> rfl

@[simp] theorem afterRead_latches (s : State) (a : DataAddr) : (s.afterRead a).latches = s.latches := by
  unfold State.afterRead; split <;> rfl

@[simp] theorem afterRead_ram (s : State) (a : DataAddr) : (s.afterRead a).ram = s.ram := by
  unfold State.afterRead; split <;> rfl

@[simp] theorem afterRead_rom (s : State) (a : DataAddr) : (s.afterRead a).rom = s.rom := by
  unfold State.afterRead; split <;> rfl

@[simp] theorem afterRead_flash (s : State) (a : DataAddr) : (s.afterRead a).flash = s.flash := by
  unfold State.afterRead; split <;> rfl

@[simp] theorem afterRead_frequency (s : State) (a : DataAddr) : (s.afterRead a).frequency = s.frequency := by
  unfold State.afterRead; split <;> rfl

@[simp] theorem afterRead_params (s : State) (a : DataAddr) : (s.afterRead a).params = s.params := by
  unfold State.afterRead; split <;> rfl

@[simp] theorem afterRead_env (s : State) (a : DataAddr) : (s.afterRead a).env = s.env := by
  unfold State.afterRead; split <;> rfl

@[simp] theorem store_pc (s : State) (a : DataAddr) (v : Byte) : (s.store a v).pc = s.pc := by
  unfold State.store; split
  · rfl
  · rename_i r _; cases r <;> rfl
  · rfl

@[simp] theorem store_extOld (s : State) (a : DataAddr) (v : Byte) : (s.store a v).extOld = s.extOld := by
  unfold State.store; split
  · rfl
  · rename_i r _; cases r <;> rfl
  · rfl

@[simp] theorem store_extNew (s : State) (a : DataAddr) (v : Byte) : (s.store a v).extNew = s.extNew := by
  unfold State.store; split
  · rfl
  · rename_i r _; cases r <;> rfl
  · rfl

@[simp] theorem store_run (s : State) (a : DataAddr) (v : Byte) : (s.store a v).run = s.run := by
  unfold State.store; split
  · rfl
  · rename_i r _; cases r <;> rfl
  · rfl

@[simp] theorem store_inService (s : State) (a : DataAddr) (v : Byte) : (s.store a v).inService = s.inService := by
  unfold State.store; split
  · rfl
  · rename_i r _; cases r <;> rfl
  · rfl

@[simp] theorem store_latches (s : State) (a : DataAddr) (v : Byte) : (s.store a v).latches = s.latches := by
  unfold State.store; split
  · rfl
  · rename_i r _; cases r <;> rfl
  · rfl

@[simp] theorem store_rom (s : State) (a : DataAddr) (v : Byte) : (s.store a v).rom = s.rom := by
  unfold State.store; split
  · rfl
  · rename_i r _; cases r <;> rfl
  · rfl

@[simp] theorem store_flash (s : State) (a : DataAddr) (v : Byte) : (s.store a v).flash = s.flash := by
  unfold State.store; split
  · rfl
  · rename_i r _; cases r <;> rfl
  · rfl

@[simp] theorem store_frequency (s : State) (a : DataAddr) (v : Byte) : (s.store a v).frequency = s.frequency := by
  unfold State.store; split
  · rfl
  · rename_i r _; cases r <;> rfl
  · rfl

@[simp] theorem store_params (s : State) (a : DataAddr) (v : Byte) : (s.store a v).params = s.params := by
  unfold State.store; split
  · rfl
  · rename_i r _; cases r <;> rfl
  · rfl

@[simp] theorem store_env (s : State) (a : DataAddr) (v : Byte) : (s.store a v).env = s.env := by
  unfold State.store; split
  · rfl
  · rename_i r _; cases r <;> rfl
  · rfl

@[simp] theorem store_draws (s : State) (a : DataAddr) (v : Byte) : (s.store a v).draws = s.draws := by
  unfold State.store; split
  · rfl
  · rename_i r _; cases r <;> rfl
  · rfl

@[simp] theorem store_t1_l (s : State) (a : DataAddr) (v : Byte) : (s.store a v).t1.l = s.t1.l := by
  unfold State.store; split
  · rfl
  · rename_i r _; cases r <;> rfl
  · rfl

@[simp] theorem store_t1_h (s : State) (a : DataAddr) (v : Byte) : (s.store a v).t1.h = s.t1.h := by
  unfold State.store; split
  · rfl
  · rename_i r _; cases r <;> rfl
  · rfl

@[simp] theorem store_t1_lo (s : State) (a : DataAddr) (v : Byte) : (s.store a v).t1.lo = s.t1.lo := by
  unfold State.store; split
  · rfl
  · rename_i r _; cases r <;> rfl
  · rfl

@[simp] theorem store_t1_hi (s : State) (a : DataAddr) (v : Byte) : (s.store a v).t1.hi = s.t1.hi := by
  unfold State.store; split
  · rfl
  · rename_i r _; cases r <;> rfl
  · rfl

@[simp] theorem store_t1_loStarted (s : State) (a : DataAddr) (v : Byte) : (s.store a v).t1.loStarted = s.t1.loStarted := by
  unfold State.store; split
  · rfl
  · rename_i r _; cases r <;> rfl
  · rfl

@[simp] theorem store_t1_cycles (s : State) (a : DataAddr) (v : Byte) : (s.store a v).t1.cycles = s.t1.cycles := by
  unfold State.store; split
  · rfl
  · rename_i r _; cases r <;> rfl
  · rfl

@[simp] theorem afterRead_ramByte (s : State) (a : DataAddr) (k : Nat) (x : Byte) :
    (s.afterRead a).ramByte k x = s.ramByte k x := by simp [State.ramByte]

@[simp] theorem afterRead_ramBank (s : State) (a : DataAddr) : (s.afterRead a).ramBank = s.ramBank := by
  simp [State.ramBank]

@[simp] theorem afterRead_next (s : State) (a : DataAddr) (n : Nat) : (s.afterRead a).next n = s.next n := by
  simp [State.next]

@[simp] theorem store_next (s : State) (a : DataAddr) (v : Byte) (n : Nat) : (s.store a v).next n = s.next n := by
  simp [State.next]

/-! ## The stack -/

theorem push_eq (s : State) (v : Byte) : s.push v = { s with sp := s.sp + 1, ram := Memory.write s.ram (ramKey 0 (s.sp + 1)) v } :=
  rfl

theorem ramByte_push (s : State) (v : Byte) (k : Nat) (y : Byte) :
    (s.push v).ramByte k y = if k = 0 ∧ y = s.sp + 1 then v else s.ramByte k y :=
  ramByte_setRam s.incSp 0 k (s.sp + 1) y v

/-- A pushed return address: low byte at SP + 1, high byte at SP + 2. -/
theorem pcPushed_pushPc (s : State) (t : CodeAddr) : PcPushed s (s.pushPc t) t := by
  have h2 : s.sp + 1 + 1 = s.sp + 2 := by rw [BitVec.add_assoc]; rfl
  refine ⟨fun k y => ?_, ?_⟩
  · unfold State.pushPc
    rw [ramByte_push, ramByte_push, push_eq]
    simp only [h2]
  · unfold State.pushPc
    simp only [push_eq, h2]

@[simp] theorem pushPc_sp (s : State) (t : CodeAddr) : (s.pushPc t).sp = s.sp + 2 := by
  rw [(pcPushed_pushPc s t).2]

/-- A return address comes back as it was pushed, with SP as it was. -/
theorem popPc_pushPc {α : Type} (s : State) (t : CodeAddr) (k : CodeAddr → State → α) :
    (s.pushPc t).popPc k = k t { s with ram := (s.pushPc t).ram } := by
  have h := pcPushed_pushPc s t
  have hsp : (s.pushPc t).sp - 1 = s.sp + 1 := by rw [pushPc_sp]; bv_omega
  have hsp2 : (s.pushPc t).sp - 1 - 1 = s.sp := by rw [pushPc_sp]; bv_omega
  have hi : (s.pushPc t).stackTop = t.extractLsb' 8 8 := by
    unfold State.stackTop; rw [h.1, pushPc_sp]; simp
  have lo : (s.pushPc t).decSp.stackTop = t.extractLsb' 0 8 := by
    have : (s.pushPc t).decSp.stackTop = (s.pushPc t).ramByte 0 ((s.pushPc t).sp - 1) := rfl
    rw [this, hsp, h.1]; simp
  have hcat : t.extractLsb' 8 8 ++ t.extractLsb' 0 8 = t := by
    ext i hi
    simp only [BitVec.getElem_append, BitVec.getElem_extractLsb']
    split
    · simp [BitVec.getLsbD_eq_getElem (by omega : i < 16)]
    · rename_i hlt
      have : 8 + (i - 8) = i := by omega
      rw [this, BitVec.getLsbD_eq_getElem (by omega : i < 16)]
  have hd : (s.pushPc t).decSp.decSp = { s with ram := (s.pushPc t).ram } := by
    have he : (s.pushPc t).decSp.decSp = { s.pushPc t with sp := (s.pushPc t).sp - 1 - 1 } := rfl
    rw [he, hsp2]
    conv_lhs => rw [h.2]
  have hp : (s.pushPc t).popPc k =
      k ((s.pushPc t).stackTop ++ (s.pushPc t).decSp.stackTop) (s.pushPc t).decSp.decSp := rfl
  rw [hp, hi, lo, hcat, hd]

/-! ## Interrupt entry -/

@[simp] theorem pushPc_pc (s : State) (t : CodeAddr) : (s.pushPc t).pc = s.pc := by simp [State.pushPc]

@[simp] theorem pushPc_extOld (s : State) (t : CodeAddr) : (s.pushPc t).extOld = s.extOld := by simp [State.pushPc]

@[simp] theorem pushPc_extNew (s : State) (t : CodeAddr) : (s.pushPc t).extNew = s.extNew := by simp [State.pushPc]

@[simp] theorem pushPc_run (s : State) (t : CodeAddr) : (s.pushPc t).run = s.run := by simp [State.pushPc]

@[simp] theorem pushPc_acc (s : State) (t : CodeAddr) : (s.pushPc t).acc = s.acc := by simp [State.pushPc]

@[simp] theorem pushPc_psw (s : State) (t : CodeAddr) : (s.pushPc t).psw = s.psw := by simp [State.pushPc]

@[simp] theorem pushPc_b (s : State) (t : CodeAddr) : (s.pushPc t).b = s.b := by simp [State.pushPc]

@[simp] theorem pushPc_c (s : State) (t : CodeAddr) : (s.pushPc t).c = s.c := by simp [State.pushPc]

@[simp] theorem pushPc_trl (s : State) (t : CodeAddr) : (s.pushPc t).trl = s.trl := by simp [State.pushPc]

@[simp] theorem pushPc_trh (s : State) (t : CodeAddr) : (s.pushPc t).trh = s.trh := by simp [State.pushPc]

@[simp] theorem pushPc_pcon (s : State) (t : CodeAddr) : (s.pushPc t).pcon = s.pcon := by simp [State.pushPc]

@[simp] theorem pushPc_ie (s : State) (t : CodeAddr) : (s.pushPc t).ie = s.ie := by simp [State.pushPc]

@[simp] theorem pushPc_ip (s : State) (t : CodeAddr) : (s.pushPc t).ip = s.ip := by simp [State.pushPc]

@[simp] theorem pushPc_ext (s : State) (t : CodeAddr) : (s.pushPc t).ext = s.ext := by simp [State.pushPc]

@[simp] theorem pushPc_t1lc (s : State) (t : CodeAddr) : (s.pushPc t).t1lc = s.t1lc := by simp [State.pushPc]

@[simp] theorem pushPc_t1hc (s : State) (t : CodeAddr) : (s.pushPc t).t1hc = s.t1hc := by simp [State.pushPc]

@[simp] theorem pushPc_fpr (s : State) (t : CodeAddr) : (s.pushPc t).fpr = s.fpr := by simp [State.pushPc]

@[simp] theorem pushPc_t1 (s : State) (t : CodeAddr) : (s.pushPc t).t1 = s.t1 := by simp [State.pushPc]

@[simp] theorem pushPc_inService (s : State) (t : CodeAddr) : (s.pushPc t).inService = s.inService := by simp [State.pushPc]

@[simp] theorem pushPc_latches (s : State) (t : CodeAddr) : (s.pushPc t).latches = s.latches := by simp [State.pushPc]

@[simp] theorem pushPc_rom (s : State) (t : CodeAddr) : (s.pushPc t).rom = s.rom := by simp [State.pushPc]

@[simp] theorem pushPc_flash (s : State) (t : CodeAddr) : (s.pushPc t).flash = s.flash := by simp [State.pushPc]

@[simp] theorem pushPc_frequency (s : State) (t : CodeAddr) : (s.pushPc t).frequency = s.frequency := by simp [State.pushPc]

@[simp] theorem pushPc_params (s : State) (t : CodeAddr) : (s.pushPc t).params = s.params := by simp [State.pushPc]

@[simp] theorem pushPc_env (s : State) (t : CodeAddr) : (s.pushPc t).env = s.env := by simp [State.pushPc]

@[simp] theorem pushPc_draws (s : State) (t : CodeAddr) : (s.pushPc t).draws = s.draws := by simp [State.pushPc]

@[simp] theorem pushPc_events (s : State) (t : CodeAddr) : (s.pushPc t).events = s.events := by simp [State.pushPc]

@[simp] theorem pushPswIfSaved_pc (s : State) : s.pushPswIfSaved.pc = s.pc := by
  unfold State.pushPswIfSaved; split <;> rfl

@[simp] theorem pushPswIfSaved_extOld (s : State) : s.pushPswIfSaved.extOld = s.extOld := by
  unfold State.pushPswIfSaved; split <;> rfl

@[simp] theorem pushPswIfSaved_extNew (s : State) : s.pushPswIfSaved.extNew = s.extNew := by
  unfold State.pushPswIfSaved; split <;> rfl

@[simp] theorem pushPswIfSaved_run (s : State) : s.pushPswIfSaved.run = s.run := by
  unfold State.pushPswIfSaved; split <;> rfl

@[simp] theorem pushPswIfSaved_acc (s : State) : s.pushPswIfSaved.acc = s.acc := by
  unfold State.pushPswIfSaved; split <;> rfl

@[simp] theorem pushPswIfSaved_psw (s : State) : s.pushPswIfSaved.psw = s.psw := by
  unfold State.pushPswIfSaved; split <;> rfl

@[simp] theorem pushPswIfSaved_b (s : State) : s.pushPswIfSaved.b = s.b := by
  unfold State.pushPswIfSaved; split <;> rfl

@[simp] theorem pushPswIfSaved_c (s : State) : s.pushPswIfSaved.c = s.c := by
  unfold State.pushPswIfSaved; split <;> rfl

@[simp] theorem pushPswIfSaved_trl (s : State) : s.pushPswIfSaved.trl = s.trl := by
  unfold State.pushPswIfSaved; split <;> rfl

@[simp] theorem pushPswIfSaved_trh (s : State) : s.pushPswIfSaved.trh = s.trh := by
  unfold State.pushPswIfSaved; split <;> rfl

@[simp] theorem pushPswIfSaved_pcon (s : State) : s.pushPswIfSaved.pcon = s.pcon := by
  unfold State.pushPswIfSaved; split <;> rfl

@[simp] theorem pushPswIfSaved_ie (s : State) : s.pushPswIfSaved.ie = s.ie := by
  unfold State.pushPswIfSaved; split <;> rfl

@[simp] theorem pushPswIfSaved_ip (s : State) : s.pushPswIfSaved.ip = s.ip := by
  unfold State.pushPswIfSaved; split <;> rfl

@[simp] theorem pushPswIfSaved_ext (s : State) : s.pushPswIfSaved.ext = s.ext := by
  unfold State.pushPswIfSaved; split <;> rfl

@[simp] theorem pushPswIfSaved_t1lc (s : State) : s.pushPswIfSaved.t1lc = s.t1lc := by
  unfold State.pushPswIfSaved; split <;> rfl

@[simp] theorem pushPswIfSaved_t1hc (s : State) : s.pushPswIfSaved.t1hc = s.t1hc := by
  unfold State.pushPswIfSaved; split <;> rfl

@[simp] theorem pushPswIfSaved_fpr (s : State) : s.pushPswIfSaved.fpr = s.fpr := by
  unfold State.pushPswIfSaved; split <;> rfl

@[simp] theorem pushPswIfSaved_t1 (s : State) : s.pushPswIfSaved.t1 = s.t1 := by
  unfold State.pushPswIfSaved; split <;> rfl

@[simp] theorem pushPswIfSaved_inService (s : State) : s.pushPswIfSaved.inService = s.inService := by
  unfold State.pushPswIfSaved; split <;> rfl

@[simp] theorem pushPswIfSaved_latches (s : State) : s.pushPswIfSaved.latches = s.latches := by
  unfold State.pushPswIfSaved; split <;> rfl

@[simp] theorem pushPswIfSaved_rom (s : State) : s.pushPswIfSaved.rom = s.rom := by
  unfold State.pushPswIfSaved; split <;> rfl

@[simp] theorem pushPswIfSaved_flash (s : State) : s.pushPswIfSaved.flash = s.flash := by
  unfold State.pushPswIfSaved; split <;> rfl

@[simp] theorem pushPswIfSaved_frequency (s : State) : s.pushPswIfSaved.frequency = s.frequency := by
  unfold State.pushPswIfSaved; split <;> rfl

@[simp] theorem pushPswIfSaved_params (s : State) : s.pushPswIfSaved.params = s.params := by
  unfold State.pushPswIfSaved; split <;> rfl

@[simp] theorem pushPswIfSaved_env (s : State) : s.pushPswIfSaved.env = s.env := by
  unfold State.pushPswIfSaved; split <;> rfl

@[simp] theorem pushPswIfSaved_draws (s : State) : s.pushPswIfSaved.draws = s.draws := by
  unfold State.pushPswIfSaved; split <;> rfl

@[simp] theorem pushPswIfSaved_events (s : State) : s.pushPswIfSaved.events = s.events := by
  unfold State.pushPswIfSaved; split <;> rfl

@[simp] theorem enter_pc (s : State) (src : Source) : (s.enter src).pc = src.vector := by simp [State.enter]

@[simp] theorem enter_extOld (s : State) (src : Source) : (s.enter src).extOld = s.extOld := by simp [State.enter]

@[simp] theorem enter_extNew (s : State) (src : Source) : (s.enter src).extNew = s.extNew := by simp [State.enter]

@[simp] theorem enter_run (s : State) (src : Source) : (s.enter src).run = s.run := by simp [State.enter]

@[simp] theorem enter_acc (s : State) (src : Source) : (s.enter src).acc = s.acc := by simp [State.enter]

@[simp] theorem enter_psw (s : State) (src : Source) : (s.enter src).psw = s.psw := by simp [State.enter]

@[simp] theorem enter_b (s : State) (src : Source) : (s.enter src).b = s.b := by simp [State.enter]

@[simp] theorem enter_c (s : State) (src : Source) : (s.enter src).c = s.c := by simp [State.enter]

@[simp] theorem enter_trl (s : State) (src : Source) : (s.enter src).trl = s.trl := by simp [State.enter]

@[simp] theorem enter_trh (s : State) (src : Source) : (s.enter src).trh = s.trh := by simp [State.enter]

@[simp] theorem enter_pcon (s : State) (src : Source) : (s.enter src).pcon = s.pcon := by simp [State.enter]

@[simp] theorem enter_ie (s : State) (src : Source) : (s.enter src).ie = s.ie := by simp [State.enter]

@[simp] theorem enter_ip (s : State) (src : Source) : (s.enter src).ip = s.ip := by simp [State.enter]

@[simp] theorem enter_ext (s : State) (src : Source) : (s.enter src).ext = s.ext := by simp [State.enter]

@[simp] theorem enter_t1lc (s : State) (src : Source) : (s.enter src).t1lc = s.t1lc := by simp [State.enter]

@[simp] theorem enter_t1hc (s : State) (src : Source) : (s.enter src).t1hc = s.t1hc := by simp [State.enter]

@[simp] theorem enter_fpr (s : State) (src : Source) : (s.enter src).fpr = s.fpr := by simp [State.enter]

@[simp] theorem enter_t1 (s : State) (src : Source) : (s.enter src).t1 = s.t1 := by simp [State.enter]

@[simp] theorem enter_inService (s : State) (src : Source) : (s.enter src).inService = s.inService ++ [src] := by simp [State.enter]

@[simp] theorem enter_latches (s : State) (src : Source) : (s.enter src).latches = s.latches.clear src := by simp [State.enter]

@[simp] theorem enter_rom (s : State) (src : Source) : (s.enter src).rom = s.rom := by simp [State.enter]

@[simp] theorem enter_flash (s : State) (src : Source) : (s.enter src).flash = s.flash := by simp [State.enter]

@[simp] theorem enter_frequency (s : State) (src : Source) : (s.enter src).frequency = s.frequency := by simp [State.enter]

@[simp] theorem enter_params (s : State) (src : Source) : (s.enter src).params = s.params := by simp [State.enter]

@[simp] theorem enter_env (s : State) (src : Source) : (s.enter src).env = s.env := by simp [State.enter]

@[simp] theorem enter_draws (s : State) (src : Source) : (s.enter src).draws = s.draws := by simp [State.enter]

@[simp] theorem enter_events (s : State) (src : Source) : (s.enter src).events = s.events := by simp [State.enter]

/-- The source the poll enters is latched and eligible, and IE7 is 1. -/
theorem taken_eligible {s : State} {src : Source} (h : s.taken = some src) :
    s.ie.getLsbD 7 = true ∧ s.getLatch src = true ∧ s.eligible src = true := by
  unfold State.taken at h
  split at h
  · rename_i hie
    exact ⟨hie, by simpa using List.find?_some h⟩
  · cases h

/-- A poll that enters nothing does nothing. -/
theorem processInterrupts_of_none {s : State} (h : s.taken = none) : s.processInterrupts = s := by
  unfold State.processInterrupts
  rw [h]

theorem processInterrupts_of_some {s : State} {src : Source} (h : s.taken = some src) : s.processInterrupts = s.enter src := by
  unfold State.processInterrupts
  rw [h]

/-- With `HALT_MODEL = ignored` nothing sleeps, so nothing wakes (R360). -/
theorem wake_of_ignored {s : State} (h : s.params.haltModel = .ignored) : s.wake = s := by
  unfold State.wake State.wokenPcon
  rw [h]
  rfl

/-- With `HALT_MODEL = ignored` fetch is never suspended (R360). -/
theorem halted_of_ignored {s : State} (h : s.params.haltModel = .ignored) : s.halted = false := by
  unfold State.halted
  rw [h]

/-- Fetch is suspended exactly when the model is `suspends` and PCON.HALT is 1. -/
theorem halted_iff (s : State) : s.halted = true ↔ s.params.haltModel = .suspends ∧ s.pcon.getLsbD 0 = true := by
  unfold State.halted
  cases s.params.haltModel <;> simp

/-! ## The Flash -/

/-- Programming a byte that is present writes that byte and takes the model's draws, and nothing else. -/
theorem programFlash_eq {s t : State} {fa : FlashAddr} {v : Byte} (h : s.programFlash fa v = some t) :
    fa.toNat < s.params.flashSize ∧
    t = { s with flash := Memory.write s.flash fa.toNat (s.programmedByte v), draws := s.draws + s.programDraws } := by
  unfold State.programFlash State.setFlash at h
  split at h
  · rename_i hf
    cases h
    exact ⟨hf, rfl⟩
  · cases h

/-- With `FLASH_WRITE_MODEL = plain` the byte becomes the value and nothing is drawn. -/
theorem programmedByte_plain {s : State} (h : s.params.flashWriteModel = .plain) (v : Byte) :
    s.programmedByte v = v ∧ s.programDraws = 0 := by
  simp [State.programmedByte, State.programDraws, h]

end Sys2Proof.Machine
end

