-- ==== Sys2Proof/Laws/Effects.lean ====
section
/-! SUPPORT. One lemma for each shared operation that says once everything it does, in the words of Safety.lean. -/

namespace Sys2Proof.Machine

/-! ## Bits -/

/-- Putting a bit changes that bit alone. -/
theorem putBit_getLsbD (v : Byte) (n k : Nat) (x : Bool) (hn : n < 8) :
    (putBit v n x).getLsbD k = if k = n then x else v.getLsbD k := by
  unfold putBit
  rcases Nat.lt_or_ge k 8 with h8 | h8
  · by_cases hk : k = n
    · subst hk
      cases x <;> simp [h8]
    · rw [if_neg hk]
      rcases Nat.lt_or_ge k n with h | h
      · cases x <;> simp [h8, h]
      · have hz : k - n ≠ 0 := by omega
        cases x <;> simp [h8, hz]
  · have hk : k ≠ n := by omega
    rw [if_neg hk, BitVec.getLsbD_of_ge _ _ h8, BitVec.getLsbD_of_ge _ _ h8]

/-- The XOR of the bits of a byte says whether it holds an odd number of ones. -/
theorem oddOnes_eq_parityOf : ∀ v : Byte, oddOnes v = parityOf v := by decide +kernel

/-- Two bytes, the high one first. -/
theorem toNat_append_byte (x y : Byte) : (x ++ y : BitVec 16).toNat = x.toNat * 256 + y.toNat := by
  rw [BitVec.toNat_append, ← Nat.shiftLeft_add_eq_or_of_lt y.isLt, Nat.shiftLeft_eq]

theorem and_sign_ne_zero : ∀ x : Byte, decide (x &&& 0x80 ≠ 0) = x.msb := by decide +kernel

theorem carryNat_eq (c : Bool) : carryNat c = c.toNat := by cases c <;> rfl

/-! ## ACC, PSW and the data space -/

/-- Writing ACC writes ACC, and PSW.P as R35 says. -/
theorem accWritten_setAcc (s : State) (v : Byte) : AccWritten s (s.setAcc v) v := by
  refine ⟨rfl, ?_, ?_⟩
  · intro k hk
    have hk : k ≠ 0 := by simpa using hk
    simp only [setAcc_psw, State.accPsw]
    split
    · rfl
    · rw [putBit_getLsbD _ _ _ _ (by omega), if_neg hk]
  · unfold ParityFollows
    simp only [setAcc_psw, State.accPsw]
    cases h : s.params.pMode
    · rfl
    · simp only [setAcc_acc]
      rw [putBit_getLsbD _ _ _ _ (by omega), if_pos rfl, oddOnes_eq_parityOf]

/-- Where pc stands does not matter to a write of ACC. -/
theorem accWritten_pc {s t : State} {v : Byte} (h : AccWritten s t v) (pc : CodeAddr) :
    AccWritten { s with pc := pc } { t with pc := pc } v := by
  obtain ⟨h1, h2, h3⟩ := h
  refine ⟨?_, h2, h3⟩
  conv_lhs => rw [h1]

/-- Where pc stands does not matter to a write of the data space. -/
theorem dataWritten_pc {s t : State} {a : DataAddr} {v : Byte} (h : DataWritten s t a v) (pc : CodeAddr) :
    DataWritten { s with pc := pc } { t with pc := pc } a v := by
  unfold DataWritten at h ⊢
  split at h
  · refine ⟨h.1, ?_⟩
    conv_lhs => rw [h.2]
  · rename_i r _
    subst h
    cases r <;> rfl
  · subst h
    rfl

/-- Putting a flag other than P changes its bit of PSW alone. -/
theorem putFlag_getLsbD (s : State) (f : Flag) (x : Bool) (hf : f ≠ .p) (k : Nat) :
    (s.putFlag f x).psw.getLsbD k = if k = f.place then x else s.psw.getLsbD k := by
  have hp : f.place < 8 := by cases f <;> decide
  have h0 : f.place ≠ 0 := by cases f <;> first | decide | exact absurd rfl hf
  unfold State.putFlag
  simp only [setPsw_psw, State.writtenPsw]
  cases s.params.pMode <;> simp only
  · exact putBit_getLsbD _ _ _ _ hp
  · rw [putBit_getLsbD _ _ _ _ (by omega), putBit_getLsbD _ _ _ _ hp]
    by_cases hk : k = 0
    · subst hk
      simp [Ne.symm h0]
    · rw [if_neg hk]

/-- Putting CY writes CY. -/
theorem carryWritten_putFlag (s : State) (x : Bool) : CarryWritten s (s.putFlag .cy x) x := by
  refine ⟨?_, fun k hk => ?_, rfl⟩
  · exact (putFlag_getLsbD _ _ _ (by decide) _).trans (if_pos rfl)
  · have hk : k ≠ 7 := by simpa using hk
    rw [putFlag_getLsbD _ _ _ (by decide), if_neg (by simpa [Flag.place] using hk)]

/-- CY and OV in one write: those two bits of PSW and nothing else. -/
theorem putCyOv_getLsbD (s : State) (cy ov : Bool) (k : Nat) :
    (s.putCyOv cy ov).psw.getLsbD k = if k = 2 then ov else if k = 7 then cy else s.psw.getLsbD k := by
  unfold State.putCyOv
  simp only [setPsw_psw, State.writtenPsw, Flag.place]
  cases s.params.pMode <;> simp only
  · rw [putBit_getLsbD _ _ _ _ (by omega), putBit_getLsbD _ _ _ _ (by omega)]
  · rw [putBit_getLsbD _ _ _ _ (by omega), putBit_getLsbD _ _ _ _ (by omega), putBit_getLsbD _ _ _ _ (by omega)]
    by_cases hk : k = 0
    · subst hk
      simp
    · rw [if_neg hk]

/-- An ALU result: ACC, CY, AC, OV, and PSW.P as R35 says; nothing else. -/
theorem putAlu_effect (s : State) (r : AluResult) :
    s.putAlu r = { s with acc := r.value, psw := (s.putAlu r).psw } ∧ (s.putAlu r).psw.getLsbD 7 = r.cy ∧
    (s.putAlu r).psw.getLsbD 6 = r.ac ∧ (s.putAlu r).psw.getLsbD 2 = r.ov ∧
    PswKept s (s.putAlu r) [7, 6, 2, 0] ∧ ParityFollows s (s.putAlu r) := by
  have hp : ∀ k, (s.putAlu r).psw.getLsbD k =
      if k = 2 then r.ov else if k = 6 then r.ac else if k = 7 then r.cy else (s.setAcc r.value).psw.getLsbD k := by
    intro k
    unfold State.putAlu State.putCyAcOv
    simp only [setPsw_psw, State.writtenPsw, setAcc_params, Flag.place]
    cases s.params.pMode <;> simp only
    · rw [putBit_getLsbD _ _ _ _ (by omega), putBit_getLsbD _ _ _ _ (by omega), putBit_getLsbD _ _ _ _ (by omega)]
    · rw [putBit_getLsbD _ _ _ _ (by omega), putBit_getLsbD _ _ _ _ (by omega), putBit_getLsbD _ _ _ _ (by omega),
        putBit_getLsbD _ _ _ _ (by omega)]
      by_cases hk : k = 0
      · subst hk
        simp
      · rw [if_neg hk]
  obtain ⟨-, hk, hpar⟩ := accWritten_setAcc s r.value
  refine ⟨rfl, by rw [hp]; rfl, by rw [hp]; rfl, by rw [hp]; rfl, fun k h => ?_, ?_⟩
  · have h : k ≠ 7 ∧ k ≠ 6 ∧ k ≠ 2 ∧ k ≠ 0 := by simpa using h
    rw [hp, if_neg h.2.2.1, if_neg h.2.1, if_neg h.1]
    exact hk k (by simpa using h.2.2.2)
  · have h0 := hp 0
    exact h0.trans hpar

/-! ## The ALU -/

/-- `ADD8` on numbers (R200). -/
theorem add8_spec (a b : Byte) (c : Bool) :
    (add8 a b c).value.toNat = (a.toNat + b.toNat + c.toNat) % 256 ∧
    (add8 a b c).cy = decide (255 < a.toNat + b.toNat + c.toNat) ∧
    (add8 a b c).ac = decide (15 < a.toNat % 16 + b.toNat % 16 + c.toNat) ∧
    (add8 a b c).ov = (a.msb == b.msb && (add8 a b c).value.msb != a.msb) := by
  have hov : (add8 a b c).ov = decide ((a ^^^ (add8 a b c).value) &&& (b ^^^ (add8 a b c).value) &&& 0x80 ≠ 0) := rfl
  refine ⟨by simp [add8, carryNat_eq], by simp [add8, carryNat_eq], by simp [add8, carryNat_eq], ?_⟩
  rw [hov, and_sign_ne_zero, BitVec.msb_and, BitVec.msb_xor, BitVec.msb_xor]
  cases a.msb <;> cases b.msb <;> cases (add8 a b c).value.msb <;> rfl

/-- `SUB8` on numbers (R201). -/
theorem sub8_spec (a b : Byte) (c : Bool) :
    ((sub8 a b c).value.toNat : Int) = ((a.toNat : Int) - b.toNat - c.toNat) % 256 ∧
    (sub8 a b c).cy = decide (a.toNat < b.toNat + c.toNat) ∧
    (sub8 a b c).ac = decide (a.toNat % 16 < b.toNat % 16 + c.toNat) ∧
    (sub8 a b c).ov = (a.msb != b.msb && (sub8 a b c).value.msb != a.msb) := by
  have hov : (sub8 a b c).ov = decide ((a ^^^ b) &&& (a ^^^ (sub8 a b c).value) &&& 0x80 ≠ 0) := rfl
  refine ⟨?_, ?_, ?_, ?_⟩
  · simp only [sub8, carryNat_eq, BitVec.toNat_ofInt]
    omega
  · simp only [sub8, carryNat_eq]
    exact decide_eq_decide.2 (by omega)
  · simp only [sub8, carryNat_eq]
    exact decide_eq_decide.2 (by omega)
  · rw [hov, and_sign_ne_zero, BitVec.msb_and, BitVec.msb_xor, BitVec.msb_xor]
    cases a.msb <;> cases b.msb <;> cases (sub8 a b c).value.msb <;> rfl

/-! ## The code regions -/

theorem codeByte_of_lt {s : State} {bank : Bank} {a : CodeAddr} (h : a.toNat < s.codeSize bank) :
    s.codeByte bank a = some (s.regionByte bank a.toNat) := by
  cases bank <;> exact if_pos h

theorem codeByte_of_ge {s : State} {bank : Bank} {a : CodeAddr} (h : s.codeSize bank ≤ a.toNat) : s.codeByte bank a = none := by
  cases bank <;> exact if_neg (by simpa [State.codeSize] using h)

/-- The address LDC reads, as a number (R186). -/
theorem tableAddr_toNat (s : State) : s.tableAddr.toNat = (s.trh.toNat * 256 + s.trl.toNat + s.acc.toNat) % 65536 := by
  have := s.acc.isLt
  unfold State.tableAddr State.tableRef
  rw [BitVec.toNat_add, toNat_append_byte, BitVec.toNat_setWidth]
  omega

/-- The flash address of LDF and STF, as a number (R75). -/
theorem flashAddr_toNat (s : State) : s.flashAddr.toNat = s.fpr.toNat % 2 * 65536 + s.trh.toNat * 256 + s.trl.toNat := by
  have h1 := s.trl.isLt
  have h2 := s.trh.isLt
  unfold State.flashAddr
  rw [BitVec.toNat_append, ← Nat.shiftLeft_add_eq_or_of_lt h1, Nat.shiftLeft_eq, BitVec.toNat_append,
    ← Nat.shiftLeft_add_eq_or_of_lt h2, Nat.shiftLeft_eq, BitVec.extractLsb'_toNat]
  omega

/-! ## Targets -/

/-- The target of a short branch (R109, R262). -/
theorem relTarget_eq (s : State) (n : Nat) (r : Byte) : s.relTarget n r = shortTarget s.pc n r := by
  unfold State.relTarget State.next shortTarget
  apply BitVec.eq_of_toInt_eq
  rw [BitVec.toInt_ofInt, BitVec.toInt_add, BitVec.toInt_add, BitVec.toInt_signExtend_of_le (by omega), BitVec.toInt_ofNat',
    BitVec.toInt_eq_toNat_bmod, ← Int.add_bmod, Int.bmod_add_bmod]

/-- The target of JMP and CALL (R107, R260). -/
theorem blockTarget_eq (s : State) (a : BitVec 12) :
    s.blockTarget 2 a = BitVec.ofNat 16 ((s.pc + 2).toNat / 4096 * 4096 + a.toNat) := by
  have ha := a.isLt
  have h2 := (s.pc + 2).isLt
  have hn : s.next 2 = s.pc + 2 := rfl
  unfold State.blockTarget
  apply BitVec.eq_of_toNat_eq
  rw [hn, BitVec.toNat_append, ← Nat.shiftLeft_add_eq_or_of_lt ha, Nat.shiftLeft_eq, BitVec.extractLsb'_toNat, BitVec.toNat_ofNat,
    Nat.shiftRight_eq_div_pow]
  omega

/-- The target of BRF and CALLR (R263, R279). -/
theorem relTarget16_eq (s : State) (r : BitVec 16) : s.relTarget16 3 r = BitVec.ofNat 16 (s.pc.toNat + 2 + r.toNat) := by
  unfold State.relTarget16 State.next
  apply BitVec.eq_of_toNat_eq
  have h1 : BitVec.toNat (1 : BitVec 16) = 1 := rfl
  simp only [BitVec.toNat_add, BitVec.toNat_sub, BitVec.toNat_ofNat, h1]
  omega

/-- A branch writes pc alone. -/
theorem branchIf_eq (s : State) (c : Bool) (n : Nat) (r : Byte) :
    s.branchIf c n r = { s with pc := if c then shortTarget s.pc n r else s.pc + BitVec.ofNat 16 n } := by
  unfold State.branchIf State.advance
  rw [relTarget_eq]
  cases c <;> rfl

/-- Where pc stands does not matter to a write of CY. -/
theorem carryWritten_pc {s t : State} {x : Bool} (h : CarryWritten s t x) (pc : CodeAddr) :
    CarryWritten { s with pc := pc } { t with pc := pc } x := by
  obtain ⟨h1, h2, h3⟩ := h
  refine ⟨h1, h2, ?_⟩
  conv_lhs => rw [h3]

/-- Where pc stands does not matter to a pushed return address. -/
theorem pcPushed_pc {s t : State} {ra : CodeAddr} (h : PcPushed s t ra) (pc : CodeAddr) :
    PcPushed { s with pc := pc } { t with pc := pc } ra := by
  refine ⟨h.1, ?_⟩
  conv_lhs => rw [h.2]

/-! ## Bit instructions -/

/-- The mask of a bit number has that bit alone. -/
theorem bitMask_getLsbD (n : BitVec 3) (k : Nat) : (bitMask n).getLsbD k = decide (k = n.toNat) := by
  have hn := n.isLt
  have h := putBit_getLsbD 0#8 n.toNat k true hn
  have he : putBit 0#8 n.toNat true = bitMask n := by simp [putBit, bitMask]
  rw [← he, h]
  by_cases hk : k = n.toNat <;> simp [hk]

/-! ## The controller -/

/-- Putting a latch changes that latch alone. -/
theorem latches_get_put (l : Latches) (src other : Source) (v : Bool) :
    (l.put src v).get other = if other = src then v else l.get other := by
  cases src <;> cases other <;> rfl

/-- Setting a list of latches sets those of the list and no other. -/
theorem latches_get_setAll (l : Latches) (ss : List Source) (src : Source) :
    (l.setAll ss).get src = (l.get src || decide (src ∈ ss)) := by
  induction ss generalizing l with
  | nil => simp [Latches.setAll]
  | cons a ss ih =>
    have hc : l.setAll (a :: ss) = (l.set a).setAll ss := rfl
    rw [hc, ih, Latches.set, latches_get_put]
    by_cases h : src = a <;> simp [h]

end Sys2Proof.Machine
end

