-- ==== Sys2Proof/Laws/Step.lean ====
section
/-! SUPPORT. What an instruction and a step are made of. A property that the primitive updates keep is kept by every instruction,
and with the timer, the poll and the boundary by every step: an invariant is proved over the primitive updates alone. -/

namespace Sys2Proof.Machine

/-- P is kept by every primitive update an instruction is made of. -/
structure Kept (P : State → Prop) : Prop where
  sfr : ∀ s r v, P s → P (s.setSfr r v)
  ram : ∀ s k x v, k ≤ 1 → P s → P (s.setRam k x v)
  jump : ∀ s t, P s → P (s.jump t)
  io : ∀ (s : State) d e, P s → P { s with draws := d, events := e }
  flash : ∀ (s : State) (fa : FlashAddr) v, fa.toNat < s.params.flashSize → P s →
    P { s with flash := Memory.write s.flash fa.toNat v }
  popService : ∀ s, P s → P s.popService

namespace Kept

variable {P : State → Prop} (K : Kept P)
include K

theorem setAcc {s : State} (v : Byte) (h : P s) : P (s.setAcc v) := K.sfr s .acc v h

theorem setPsw {s : State} (v : Byte) (h : P s) : P (s.setPsw v) := K.sfr s .psw v h

theorem putFlag {s : State} (f : Flag) (x : Bool) (h : P s) : P (s.putFlag f x) := K.setPsw _ h

theorem putCyOv {s : State} (cy ov : Bool) (h : P s) : P (s.putCyOv cy ov) := K.setPsw _ h

theorem putAlu {s : State} (r : AluResult) (h : P s) : P (s.putAlu r) := K.setPsw _ (K.setAcc _ h)

theorem incSp {s : State} (h : P s) : P s.incSp := K.sfr s .sp (s.sp + 1) h

theorem decSp {s : State} (h : P s) : P s.decSp := K.sfr s .sp (s.sp - 1) h

theorem draw {s : State} (n : Nat) (h : P s) : P (s.draw n) := K.io s (s.draws + n) s.events h

theorem advance {s : State} (n : Nat) (h : P s) : P (s.advance n) := K.jump _ _ h

theorem branchIf {s : State} (c : Bool) (n : Nat) (r : Byte) (h : P s) : P (s.branchIf c n r) := by
  unfold State.branchIf
  split
  · exact K.jump _ _ h
  · exact K.advance _ h

theorem setStackTop {s : State} (v : Byte) (h : P s) : P (s.setStackTop v) := K.ram _ _ _ _ (Nat.zero_le 1) h

theorem push {s : State} (v : Byte) (h : P s) : P (s.push v) := K.setStackTop _ (K.incSp h)

theorem pushPc {s : State} (t : CodeAddr) (h : P s) : P (s.pushPc t) := K.push _ (K.push _ h)

theorem pop {s : State} {k : Byte → State → State} (h : P s) (hk : ∀ v t, P t → P (k v t)) : P (s.pop k) :=
  hk _ _ (K.decSp h)

theorem popPc {s : State} {k : CodeAddr → State → State} (h : P s) (hk : ∀ v t, P t → P (k v t)) : P (s.popPc k) :=
  K.pop h fun _ _ h => K.pop h fun _ _ h => hk _ _ h

theorem store {s : State} (a : DataAddr) (v : Byte) (h : P s) : P (s.store a v) := by
  unfold State.store
  split
  · exact K.ram _ _ _ _ (ramBank_le s) h
  · exact K.sfr _ _ _ h
  · exact K.io s s.draws _ h

theorem afterRead {s : State} (a : DataAddr) (h : P s) : P (s.afterRead a) := by
  rw [afterRead_eq]
  exact K.io _ _ _ h

theorem load {s : State} (a : DataAddr) {k : Byte → State → State} (h : P s) (hk : ∀ v t, P t → P (k v t)) :
    P (s.load a k) := hk _ _ (K.afterRead a h)

theorem loadOperand {s : State} (o : Operand) {k : Byte → State → State} (h : P s) (hk : ∀ v t, P t → P (k v t)) :
    P (s.loadOperand o k) := by
  cases o with
  | imm v => exact hk _ _ h
  | d9 a => exact hk _ _ (K.afterRead a h)
  | ind j => exact hk _ _ (K.afterRead _ h)

theorem modify {s : State} (a : DataAddr) (f : Byte → Byte) (h : P s) : P (s.modify a f) :=
  K.load a h fun _ _ h => K.store _ _ h

theorem putProduct {s : State} (p : BitVec 24) (h : P s) : P (s.putProduct p) :=
  K.putCyOv _ _ (K.sfr _ .c _ (K.setAcc _ (K.sfr _ .b _ h)))

theorem putDivision {s : State} (x y z : Byte) (h : P s) : P (s.putDivision x y z) :=
  K.sfr _ .b _ (K.sfr _ .c _ (K.setAcc _ h))

theorem popPswIfSaved {s : State} (h : P s) : P s.popPswIfSaved := by
  unfold State.popPswIfSaved
  split
  · exact K.pop h fun _ _ h => K.setPsw _ h
  · exact h

theorem pushPswIfSaved {s : State} (h : P s) : P s.pushPswIfSaved := by
  unfold State.pushPswIfSaved
  split
  · exact K.push _ h
  · exact h

theorem leave {s : State} (h : P s) : P s.leave :=
  K.popPc (K.popPswIfSaved h) fun _ _ h => K.popService _ (K.jump _ _ h)

theorem loadAcc {s : State} (a : DataAddr) (n : Nat) (h : P s) : P (s.loadAcc a n) :=
  K.load a h fun _ _ h => K.advance _ (K.setAcc _ h)

theorem exchange {s : State} (a : DataAddr) (n : Nat) (h : P s) : P (s.exchange a n) :=
  K.load a h fun _ _ h => K.advance _ (K.setAcc _ (K.store _ _ h))

theorem addOperand {s : State} (o : Operand) (c : Bool) (n : Nat) (h : P s) : P (s.addOperand o c n) :=
  K.loadOperand o h fun _ _ h => K.advance _ (K.putAlu _ h)

theorem subOperand {s : State} (o : Operand) (c : Bool) (n : Nat) (h : P s) : P (s.subOperand o c n) :=
  K.loadOperand o h fun _ _ h => K.advance _ (K.putAlu _ h)

theorem logicOperand {s : State} (o : Operand) (f : Byte → Byte → Byte) (n : Nat) (h : P s) :
    P (s.logicOperand o f n) :=
  K.loadOperand o h fun _ _ h => K.advance _ (K.setAcc _ h)

theorem decrementBranch {s : State} (a : DataAddr) (n : Nat) (r : Byte) (h : P s) : P (s.decrementBranch a n r) :=
  K.load a h fun _ _ h => K.branchIf _ _ _ (K.store _ _ h)

theorem branchEqual {s : State} (x y r : Byte) (h : P s) : P (s.branchEqual x y r) := K.branchIf _ _ _ (K.putFlag _ _ h)

theorem branchNotEqual {s : State} (x y r : Byte) (h : P s) : P (s.branchNotEqual x y r) :=
  K.branchIf _ _ _ (K.putFlag _ _ h)

theorem drawDivision {s : State} (h : P s) : P s.drawDivision := K.putDivision _ _ _ (K.draw _ h)

theorem clearBranch {s : State} (a : DataAddr) (n : BitVec 3) (r : Byte) {v : Byte} (h : P s) :
    P (if v.getLsbD n.toNat then (s.store a (v &&& ~~~(bitMask n))).jump (s.relTarget 3 r) else s.advance 3) := by
  split
  · exact K.jump _ _ (K.store _ _ h)
  · exact K.advance _ h

theorem wake {s : State} (h : P s) : P s.wake := K.sfr _ .pcon _ h

theorem programFlash {s t : State} {fa : FlashAddr} {v : Byte} (ht : s.programFlash fa v = some t) (h : P s) : P t := by
  obtain ⟨hf, rfl⟩ := programFlash_eq ht
  exact K.flash (s.draw s.programDraws) fa (s.programmedByte v) hf (K.draw _ h)

omit K in
theorem of_next {u t : State} (he : (Host.Outcome.next u : Result) = .next t) (h : P u) : P t := by
  cases he
  exact h

/-- What the primitive updates keep, every instruction keeps. -/
theorem exec_next {i : Instr} {s t : State} (h : P s) (he : exec i s = .next t) : P t := by
  cases i
  case ldD9 a => exact of_next he (K.loadAcc _ _ h)
  case ldInd j => exact of_next he (K.loadAcc _ _ h)
  case stD9 a => exact of_next he (K.advance _ (K.store _ _ h))
  case stInd j => exact of_next he (K.advance _ (K.store _ _ h))
  case movD9 v a => exact of_next he (K.advance _ (K.store _ _ h))
  case movInd v j => exact of_next he (K.advance _ (K.store _ _ h))
  case push a => exact of_next he (K.load _ (K.incSp h) fun _ _ h => K.advance _ (K.setStackTop _ h))
  case pop a => exact of_next he (K.advance _ (K.decSp (K.store _ _ h)))
  case xchD9 a => exact of_next he (K.exchange _ _ h)
  case xchInd j => exact of_next he (K.exchange _ _ h)
  case addImm v => exact of_next he (K.addOperand _ _ _ h)
  case addD9 a => exact of_next he (K.addOperand _ _ _ h)
  case addInd j => exact of_next he (K.addOperand _ _ _ h)
  case addcImm v => exact of_next he (K.addOperand _ _ _ h)
  case addcD9 a => exact of_next he (K.addOperand _ _ _ h)
  case addcInd j => exact of_next he (K.addOperand _ _ _ h)
  case subImm v => exact of_next he (K.subOperand _ _ _ h)
  case subD9 a => exact of_next he (K.subOperand _ _ _ h)
  case subInd j => exact of_next he (K.subOperand _ _ _ h)
  case subcImm v => exact of_next he (K.subOperand _ _ _ h)
  case subcD9 a => exact of_next he (K.subOperand _ _ _ h)
  case subcInd j => exact of_next he (K.subOperand _ _ _ h)
  case mul => exact of_next he (K.advance _ (K.putProduct _ h))
  case incD9 a => exact of_next he (K.advance _ (K.modify _ _ h))
  case incInd j => exact of_next he (K.advance _ (K.modify _ _ h))
  case decD9 a => exact of_next he (K.advance _ (K.modify _ _ h))
  case decInd j => exact of_next he (K.advance _ (K.modify _ _ h))
  case andImm v => exact of_next he (K.logicOperand _ _ _ h)
  case andD9 a => exact of_next he (K.logicOperand _ _ _ h)
  case andInd j => exact of_next he (K.logicOperand _ _ _ h)
  case orImm v => exact of_next he (K.logicOperand _ _ _ h)
  case orD9 a => exact of_next he (K.logicOperand _ _ _ h)
  case orInd j => exact of_next he (K.logicOperand _ _ _ h)
  case xorImm v => exact of_next he (K.logicOperand _ _ _ h)
  case xorD9 a => exact of_next he (K.logicOperand _ _ _ h)
  case xorInd j => exact of_next he (K.logicOperand _ _ _ h)
  case rol => exact of_next he (K.advance _ (K.setAcc _ h))
  case rolc => exact of_next he (K.advance _ (K.putFlag _ _ (K.setAcc _ h)))
  case ror => exact of_next he (K.advance _ (K.setAcc _ h))
  case rorc => exact of_next he (K.advance _ (K.putFlag _ _ (K.setAcc _ h)))
  case set1 a n => exact of_next he (K.advance _ (K.modify _ _ h))
  case clr1 a n => exact of_next he (K.advance _ (K.modify _ _ h))
  case not1 a n => exact of_next he (K.advance _ (K.modify _ _ h))
  case jmp a => exact of_next he (K.jump _ _ h)
  case jmpf a => exact of_next he (K.jump _ _ h)
  case br r => exact of_next he (K.jump _ _ h)
  case brf r => exact of_next he (K.jump _ _ h)
  case bz r => exact of_next he (K.branchIf _ _ _ h)
  case bnz r => exact of_next he (K.branchIf _ _ _ h)
  case bp a n r => exact of_next he (K.load _ h fun _ _ h => K.branchIf _ _ _ h)
  case bpc a n r => exact of_next he (K.load _ h fun _ _ h => K.clearBranch _ _ _ h)
  case bn a n r => exact of_next he (K.load _ h fun _ _ h => K.branchIf _ _ _ h)
  case dbnzD9 a r => exact of_next he (K.decrementBranch _ _ _ h)
  case dbnzInd j r => exact of_next he (K.decrementBranch _ _ _ h)
  case beImm v r => exact of_next he (K.branchEqual _ _ _ h)
  case beD9 a r => exact of_next he (K.load _ h fun _ _ h => K.branchEqual _ _ _ h)
  case beInd j v r => exact of_next he (K.load _ h fun _ _ h => K.branchEqual _ _ _ h)
  case bneImm v r => exact of_next he (K.branchNotEqual _ _ _ h)
  case bneD9 a r => exact of_next he (K.load _ h fun _ _ h => K.branchNotEqual _ _ _ h)
  case bneInd j v r => exact of_next he (K.load _ h fun _ _ h => K.branchNotEqual _ _ _ h)
  case call a => exact of_next he (K.jump _ _ (K.pushPc _ h))
  case callf a => exact of_next he (K.jump _ _ (K.pushPc _ h))
  case callr r => exact of_next he (K.jump _ _ (K.pushPc _ h))
  case ret => exact of_next he (K.popPc h fun _ _ h => K.jump _ _ h)
  case reti => exact of_next he (K.leave h)
  case nop => exact of_next he (K.advance _ h)
  case ldc =>
    change execLdc s = _ at he
    unfold execLdc at he
    split at he
    · exact of_next he (K.advance _ (K.setAcc _ h))
    · cases he
  case ldf =>
    change execLdf s = _ at he
    unfold execLdf at he
    split at he
    · exact of_next he (K.advance _ (K.setAcc _ h))
    · cases he
  case stf =>
    change execStf s = _ at he
    unfold execStf at he
    split at he
    · rename_i u hu
      exact of_next he (K.advance _ (K.programFlash hu h))
    · cases he
  case div =>
    change execDiv s = _ at he
    unfold execDiv at he
    split at he
    · exact of_next he (K.advance _ (K.putCyOv _ _ (K.putDivision _ _ _ h)))
    · exact of_next he (K.advance _ (K.putCyOv _ _ (K.drawDivision h)))

end Kept

/-- P is kept by everything a step is made of. -/
structure StepKept (P : State → Prop) : Prop extends Kept P where
  boundary : ∀ s, P s → P s.boundary
  begin : ∀ s, P s → P s.begin
  tick : ∀ s, P s → P s.tick
  clearLatch : ∀ s src, P s → P (s.clearLatch src)
  pushService : ∀ s src, s.eligible src = true → P s → P (s.pushService src)

@[simp] theorem tick_pc (s : State) : s.tick.pc = s.pc := by simp only [State.tick]

@[simp] theorem tick_extOld (s : State) : s.tick.extOld = s.extOld := by simp only [State.tick]

@[simp] theorem tick_extNew (s : State) : s.tick.extNew = s.extNew := by simp only [State.tick]

@[simp] theorem tick_run (s : State) : s.tick.run = s.run := by simp only [State.tick]

@[simp] theorem tick_acc (s : State) : s.tick.acc = s.acc := by simp only [State.tick]

@[simp] theorem tick_psw (s : State) : s.tick.psw = s.psw := by simp only [State.tick]

@[simp] theorem tick_b (s : State) : s.tick.b = s.b := by simp only [State.tick]

@[simp] theorem tick_c (s : State) : s.tick.c = s.c := by simp only [State.tick]

@[simp] theorem tick_trl (s : State) : s.tick.trl = s.trl := by simp only [State.tick]

@[simp] theorem tick_trh (s : State) : s.tick.trh = s.trh := by simp only [State.tick]

@[simp] theorem tick_sp (s : State) : s.tick.sp = s.sp := by simp only [State.tick]

@[simp] theorem tick_pcon (s : State) : s.tick.pcon = s.pcon := by simp only [State.tick]

@[simp] theorem tick_ie (s : State) : s.tick.ie = s.ie := by simp only [State.tick]

@[simp] theorem tick_ip (s : State) : s.tick.ip = s.ip := by simp only [State.tick]

@[simp] theorem tick_ext (s : State) : s.tick.ext = s.ext := by simp only [State.tick]

@[simp] theorem tick_t1lc (s : State) : s.tick.t1lc = s.t1lc := by simp only [State.tick]

@[simp] theorem tick_t1hc (s : State) : s.tick.t1hc = s.t1hc := by simp only [State.tick]

@[simp] theorem tick_fpr (s : State) : s.tick.fpr = s.fpr := by simp only [State.tick]

@[simp] theorem tick_inService (s : State) : s.tick.inService = s.inService := by simp only [State.tick]

@[simp] theorem tick_ram (s : State) : s.tick.ram = s.ram := by simp only [State.tick]

@[simp] theorem tick_rom (s : State) : s.tick.rom = s.rom := by simp only [State.tick]

@[simp] theorem tick_flash (s : State) : s.tick.flash = s.flash := by simp only [State.tick]

@[simp] theorem tick_frequency (s : State) : s.tick.frequency = s.frequency := by simp only [State.tick]

@[simp] theorem tick_params (s : State) : s.tick.params = s.params := by simp only [State.tick]

@[simp] theorem tick_env (s : State) : s.tick.env = s.env := by simp only [State.tick]

/-- The ticks of a step are single ticks one after another. -/
theorem ticks_succ (s : State) (n : Nat) : s.ticks (n + 1) = s.tick.ticks n := by
  simp [State.ticks, State.tickN]

/-- `ticks` is `tickN`. -/
theorem ticks_eq_tickN (n : Nat) (s : State) : s.ticks n = State.tickN n s := by
  induction n generalizing s with
  | zero => simp [State.ticks, State.tickN]
  | succ n ih => rw [ticks_succ, ih, State.tickN]

/-- Each tick counts one (R341). -/
theorem tickN_cycles (n : Nat) (s : State) : (State.tickN n s).t1.cycles = s.t1.cycles + n := by
  induction n generalizing s with
  | zero => rfl
  | succ n ih =>
    have h : s.tick.t1.cycles = s.t1.cycles + 1 := rfl
    rw [State.tickN, ih, h, Nat.add_right_comm, Nat.add_assoc]

@[simp] theorem ticks_zero (s : State) : s.ticks 0 = s := by simp [State.ticks, State.tickN]

/-- A poll that enters nothing does nothing. -/
theorem poll_of_none {s : State} (h : s.taken = none) : s.poll = s := by
  unfold State.poll
  rw [h]

/-- A poll that enters a source: the entry, the end of a halt, and the ticks of the entry. -/
theorem poll_of_some {s : State} {src : Source} (h : s.taken = some src) :
    s.poll = ((s.enter src).wake).ticks s.params.entryTicks := by
  unfold State.poll
  rw [h]

/-- With the values of R6 a turn's poll is processInterrupts alone. -/
theorem poll_eq_processInterrupts {s : State} (ht : s.params.entryTicks = 0) (hh : s.params.haltModel = .ignored) :
    s.poll = s.processInterrupts := by
  cases h : s.taken with
  | none => rw [poll_of_none h, processInterrupts_of_none h]
  | some src =>
    rw [poll_of_some h, processInterrupts_of_some h, ht, ticks_zero, wake_of_ignored (by simpa using hh)]

/-- A step while fetch is suspended. -/
theorem step_of_halted {s : State} (h : s.halted = true) : step s = .next s.idleTurn := if_pos h

/-- A step while fetch is not suspended. -/
theorem step_of_running {s : State} (h : s.halted = false) : step s = s.runTurn := if_neg (by simp [h])

namespace StepKept

variable {P : State → Prop} (K : StepKept P)
include K

theorem ticks {s : State} (n : Nat) (h : P s) : P (s.ticks n) := by
  induction n generalizing s with
  | zero => exact h
  | succ n ih => rw [ticks_succ]; exact ih (K.tick _ h)

theorem enter {s : State} {src : Source} (he : s.eligible src = true) (h : P s) : P (s.enter src) := by
  refine K.jump _ _ (K.pushService _ _ ?_ (K.pushPswIfSaved (K.pushPc _ (K.clearLatch _ _ h))))
  simpa [State.eligible] using he

theorem poll {s : State} (h : P s) : P s.poll := by
  cases ht : s.taken with
  | none => rwa [poll_of_none ht]
  | some src =>
    rw [poll_of_some ht]
    exact K.ticks _ (K.wake (K.enter (taken_eligible ht).2.2 h))

theorem finish {s : State} (n : Nat) (h : P s) : P (s.finish n) := K.poll (K.ticks n h)

end StepKept

/-- A turn that runs an instruction and goes on: the instruction fetched after the boundary runs, its ticks run, and the poll runs. -/
theorem runTurn_next {s t : State} (h : s.runTurn = .next t) :
    ∃ f u, s.boundary.begin.fetch = .next f ∧ exec f.instr s.boundary.begin = .next u ∧
      t = u.finish (s.params.cycles f.op) := by
  unfold State.runTurn State.processInstruction at h
  cases hf : s.boundary.begin.fetch with
  | next f =>
    simp only [hf] at h
    cases hx : exec f.instr s.boundary.begin with
    | next u =>
      simp only [hx] at h
      cases h
      exact ⟨f, u, rfl, hx, rfl⟩
    | fault e => simp [hx] at h
    | refused r => simp [hx] at h
  | fault e => simp [hf] at h
  | refused r => simp [hf] at h

/-- A step that goes on: it waits while fetch is suspended, and otherwise runs the instruction fetched after the boundary, its ticks
and the poll. -/
theorem step_next {s t : State} (h : step s = .next t) :
    (s.halted = true ∧ t = s.idleTurn) ∨
    (s.halted = false ∧ ∃ f u, s.boundary.begin.fetch = .next f ∧ exec f.instr s.boundary.begin = .next u ∧
      t = u.finish (s.params.cycles f.op)) := by
  cases hh : s.halted with
  | true =>
    rw [step_of_halted hh] at h
    cases h
    exact .inl ⟨rfl, rfl⟩
  | false =>
    rw [step_of_running hh] at h
    exact .inr ⟨rfl, runTurn_next h⟩

/-- What everything a step is made of keeps, every step keeps. -/
theorem StepKept.step_next {P : State → Prop} (K : StepKept P) {s t : State} (h : P s) (he : step s = .next t) : P t := by
  obtain ⟨-, rfl⟩ | ⟨-, f, u, -, hx, rfl⟩ := Machine.step_next he
  · exact K.finish _ (K.boundary _ h)
  · exact K.finish _ (K.exec_next (K.begin _ (K.boundary _ h)) hx)

end Sys2Proof.Machine
end

