-- ==== Sys2Proof/Machine/Assembly.lean ====
section
/-! DEFINITION. The assembler's form of an instruction (R116). Numbers are written in decimal, and every branch and jump target as
the absolute address it has when the instruction stands at pc0. No step reads this file. -/

namespace Sys2Proof

/-- The assembler's name of a block-owned cell (R116); the split addresses are written by the name of their read side. -/
def Machine.Sfr.name : Machine.Sfr → String
  | .acc => "ACC"
  | .psw => "PSW"
  | .b => "B"
  | .c => "C"
  | .trl => "TRL"
  | .trh => "TRH"
  | .sp => "SP"
  | .pcon => "PCON"
  | .ie => "IE"
  | .ip => "IP"
  | .ext => "EXT"
  | .t1cnt => "T1CNT"
  | .t1lc => "T1LC"
  | .t1l => "T1L"
  | .t1hc => "T1HC"
  | .t1h => "T1H"
  | .fpr => "FPR"

/-- A `d9` operand: an SFR name or a number (R116). -/
def d9Text (a : DataAddr) : String :=
  match Machine.Sfr.ofAddr a with
  | some r => r.name
  | none => toString a.toNat

/-- An immediate (R116). -/
def immText (v : Byte) : String := "#" ++ toString v.toNat

/-- An indirect operand (R116). -/
def indText (j : BitVec 2) : String := "@R" ++ toString j.toNat

/-- A bit operand: the data address and the bit number (R116). -/
def bitText (a : DataAddr) (n : BitVec 3) : String := d9Text a ++ "," ++ toString n.toNat

/-- A short relative target, as the absolute address (R109, R116). -/
def relText (pc0 : CodeAddr) (len : Nat) (r : Byte) : String :=
  toString (pc0 + BitVec.ofNat 16 len + r.signExtend 16).toNat

/-- A long relative target, as the absolute address (R116, R263). -/
def rel16Text (pc0 : CodeAddr) (r : BitVec 16) : String := toString (pc0 + 3 - 1 + r).toNat

/-- A 12-bit target, as the absolute address (R107, R116). -/
def blockText (pc0 : CodeAddr) (a : BitVec 12) : String := toString ((pc0 + 2).extractLsb' 12 4 ++ a : BitVec 16).toNat

/-- The assembler's form of an instruction that stands at pc0 (R116). -/
def Instr.assembly (pc0 : CodeAddr) : Instr → String
  | .ldD9 a => "LD " ++ d9Text a
  | .ldInd j => "LD " ++ indText j
  | .stD9 a => "ST " ++ d9Text a
  | .stInd j => "ST " ++ indText j
  | .movD9 v a => "MOV " ++ immText v ++ "," ++ d9Text a
  | .movInd v j => "MOV " ++ immText v ++ "," ++ indText j
  | .ldc => "LDC"
  | .push a => "PUSH " ++ d9Text a
  | .pop a => "POP " ++ d9Text a
  | .xchD9 a => "XCH " ++ d9Text a
  | .xchInd j => "XCH " ++ indText j
  | .addImm v => "ADD " ++ immText v
  | .addD9 a => "ADD " ++ d9Text a
  | .addInd j => "ADD " ++ indText j
  | .addcImm v => "ADDC " ++ immText v
  | .addcD9 a => "ADDC " ++ d9Text a
  | .addcInd j => "ADDC " ++ indText j
  | .subImm v => "SUB " ++ immText v
  | .subD9 a => "SUB " ++ d9Text a
  | .subInd j => "SUB " ++ indText j
  | .subcImm v => "SUBC " ++ immText v
  | .subcD9 a => "SUBC " ++ d9Text a
  | .subcInd j => "SUBC " ++ indText j
  | .mul => "MUL"
  | .div => "DIV"
  | .incD9 a => "INC " ++ d9Text a
  | .incInd j => "INC " ++ indText j
  | .decD9 a => "DEC " ++ d9Text a
  | .decInd j => "DEC " ++ indText j
  | .andImm v => "AND " ++ immText v
  | .andD9 a => "AND " ++ d9Text a
  | .andInd j => "AND " ++ indText j
  | .orImm v => "OR " ++ immText v
  | .orD9 a => "OR " ++ d9Text a
  | .orInd j => "OR " ++ indText j
  | .xorImm v => "XOR " ++ immText v
  | .xorD9 a => "XOR " ++ d9Text a
  | .xorInd j => "XOR " ++ indText j
  | .rol => "ROL"
  | .rolc => "ROLC"
  | .ror => "ROR"
  | .rorc => "RORC"
  | .set1 a n => "SET1 " ++ bitText a n
  | .clr1 a n => "CLR1 " ++ bitText a n
  | .not1 a n => "NOT1 " ++ bitText a n
  | .jmp a => "JMP " ++ blockText pc0 a
  | .jmpf a => "JMPF " ++ toString a.toNat
  | .br r => "BR " ++ relText pc0 2 r
  | .brf r => "BRF " ++ rel16Text pc0 r
  | .bz r => "BZ " ++ relText pc0 2 r
  | .bnz r => "BNZ " ++ relText pc0 2 r
  | .bp a n r => "BP " ++ bitText a n ++ "," ++ relText pc0 3 r
  | .bpc a n r => "BPC " ++ bitText a n ++ "," ++ relText pc0 3 r
  | .bn a n r => "BN " ++ bitText a n ++ "," ++ relText pc0 3 r
  | .dbnzD9 a r => "DBNZ " ++ d9Text a ++ "," ++ relText pc0 3 r
  | .dbnzInd j r => "DBNZ " ++ indText j ++ "," ++ relText pc0 2 r
  | .beImm v r => "BE " ++ immText v ++ "," ++ relText pc0 3 r
  | .beD9 a r => "BE " ++ d9Text a ++ "," ++ relText pc0 3 r
  | .beInd j v r => "BE " ++ indText j ++ "," ++ immText v ++ "," ++ relText pc0 3 r
  | .bneImm v r => "BNE " ++ immText v ++ "," ++ relText pc0 3 r
  | .bneD9 a r => "BNE " ++ d9Text a ++ "," ++ relText pc0 3 r
  | .bneInd j v r => "BNE " ++ indText j ++ "," ++ immText v ++ "," ++ relText pc0 3 r
  | .call a => "CALL " ++ blockText pc0 a
  | .callf a => "CALLF " ++ toString a.toNat
  | .callr r => "CALLR " ++ rel16Text pc0 r
  | .ret => "RET"
  | .reti => "RETI"
  | .nop => "NOP"
  | .ldf => "LDF"
  | .stf => "STF"

end Sys2Proof
end

