-- ==== Sys2Proof/Tests/Slice0.lean ====
section
/-! SUPPORT. The model's own tests: expected results are those of spec/95_test_vectors.md or read by hand from the rule a test
names; and, at the end, a witness for the hypotheses of every statement that has some. -/

namespace Sys2Proof.Machine.Tests

/-! ## Helpers -/

/-- The parameters of R6, with CYCLES ≡ 1 and the cascade address of V-T. -/
def params : Params := { Params.spec with extraCycles := [], cascadeLowReload := 0x11B }

/-- The start of the vectors: reset values, pc = 0x0100, RAM bytes 0x00, no set by the environment. -/
def m : State := { State.reset with pc := 0x0100, run := .started, params := params, ram := [], env := [], frequency := 0 }

/-- The parameters with the values R6 does not give HALT_MODEL, FLASH_WRITE_MODEL and ENTRY_TICKS. -/
def otherParams : Params := { params with haltModel := .suspends, flashWriteModel := .unspecified, entryTicks := 4 }

/-- A halted machine whose IE7 is 1. -/
def asleep : State := { m with params := otherParams, pcon := 0x03, ie := 0x80, sp := 0x7F }

/-- The bytes decode to one instruction, this one. -/
def reads (bytes : List Byte) (i : Instr) : Bool :=
  match decode bytes with
  | .ok (j, []) => i == j
  | _ => false

/-- The bytes decode to one instruction, it goes on from s, and the next state is as p says. -/
def gives (bytes : List Byte) (s : State) (p : State → Bool) : Bool :=
  match decode bytes with
  | .ok (i, []) =>
    match exec i s with
    | .next t => p t
    | _ => false
  | _ => false

/-- The bytes decode to one instruction, and it faults on s with f. -/
def faults (bytes : List Byte) (s : State) (f : Fault) : Bool :=
  match decode bytes with
  | .ok (i, []) =>
    match exec i s with
    | .fault g => f == g
    | _ => false
  | _ => false

/-- A step goes on, and the next state is as p says. -/
def stepGives (s : State) (p : State → Bool) : Bool :=
  match step s with
  | .next t => p t
  | _ => false

/-- Timer 1 as the rows of V-T start it. -/
def timed (cnt lr hr : Byte) (lo hi : Nat) (started : Bool) : State :=
  { m with t1 := { Timer1.atReset with cnt := cnt, lr := lr, hr := hr, lo := lo, hi := hi, loStarted := started } }

/-- The columns of V-T after a tick. -/
def tickIs (s : State) (lo hi : Nat) (cnt : Byte) (latch : Bool) (audio : List Event) : Bool :=
  s.tick.t1.lo == lo && s.tick.t1.hi == hi && s.tick.t1.cnt == cnt && s.tick.getLatch .t1 == latch && s.tick.events == audio &&
    s.tick.t1.l == BitVec.ofNat 8 lo && s.tick.t1.h == BitVec.ofNat 8 hi

/-- The start of V-IN. -/
def polled : State := { m with ie := 0x80, sp := 0x7F, pc := 0x1234 }

/-! ## Well-formedness -/

theorem test_wellFormed : Instr.nop.wellFormed [] = true ∧ (Instr.jmp 0xFFF).wellFormed [0x00, 0x3E] = true := by decide

/-- R115, R144: an opcode of UNIMPLEMENTED is refused. -/
theorem test_unimplemented_refused : Instr.nop.wellFormed [0x00] = false ∧ (Instr.jmp 0xFFF).wellFormed [0x3F] = false := by decide

/-! ## Decoding: one word of every row, written from its format (R102) and V-EN -/

theorem test_decode_data_transfer :
    reads [0x03, 0x1B] (.ldD9 0x11B) ∧ reads [0x07] (.ldInd 3) ∧ reads [0x12, 0x11] (.stD9 0x011) ∧ reads [0x16] (.stInd 2) ∧
    reads [0x23, 0x06, 0x7F] (.movD9 0x7F 0x106) ∧ reads [0x27, 0x99] (.movInd 0x99 3) ∧ reads [0xC1] .ldc ∧
    reads [0x61, 0x02] (.push 0x102) ∧ reads [0x71, 0x03] (.pop 0x103) ∧ reads [0xC2, 0xFF] (.xchD9 0x0FF) ∧
    reads [0xC5] (.xchInd 1) := by decide

theorem test_decode_arithmetic :
    reads [0x81, 0x03] (.addImm 3) ∧ reads [0x83, 0x01] (.addD9 0x101) ∧ reads [0x85] (.addInd 1) ∧ reads [0x91, 0x80] (.addcImm 0x80) ∧
    reads [0x92, 0x20] (.addcD9 0x020) ∧ reads [0x96] (.addcInd 2) ∧ reads [0xA1, 0x03] (.subImm 3) ∧ reads [0xA3, 0x54] (.subD9 0x154) ∧
    reads [0xA7] (.subInd 3) ∧ reads [0xB1, 0x0F] (.subcImm 0x0F) ∧ reads [0xB2, 0x01] (.subcD9 0x001) ∧ reads [0xB4] (.subcInd 0) ∧
    reads [0x30] .mul ∧ reads [0x40] .div ∧ reads [0x62, 0x30] (.incD9 0x030) ∧ reads [0x65] (.incInd 1) ∧
    reads [0x73, 0x00] (.decD9 0x100) ∧ reads [0x76] (.decInd 2) := by decide

theorem test_decode_logical :
    reads [0xE1, 0x0F] (.andImm 0x0F) ∧ reads [0xE3, 0x00] (.andD9 0x100) ∧ reads [0xE5] (.andInd 1) ∧ reads [0xD1, 0xA5] (.orImm 0xA5) ∧
    reads [0xD2, 0x10] (.orD9 0x010) ∧ reads [0xD7] (.orInd 3) ∧ reads [0xF1, 0x5A] (.xorImm 0x5A) ∧ reads [0xF3, 0x00] (.xorD9 0x100) ∧
    reads [0xF6] (.xorInd 2) ∧ reads [0xE0] .rol ∧ reads [0xF0] .rolc ∧ reads [0xC0] .ror ∧ reads [0xD0] .rorc := by decide

theorem test_decode_bit :
    reads [0xFF, 0x08] (.set1 0x108 7) ∧ reads [0xD9, 0x18] (.clr1 0x118 1) ∧ reads [0xAF, 0x40] (.not1 0x040 7) := by decide

theorem test_decode_control :
    reads [0x3F, 0xFF] (.jmp 0xFFF) ∧ reads [0x28, 0x00] (.jmp 0x000) ∧ reads [0x21, 0x02, 0x00] (.jmpf 0x0200) ∧
    reads [0x01, 0xFE] (.br 0xFE) ∧ reads [0x11, 0xFE, 0xFF] (.brf 0xFFFE) ∧ reads [0x80, 0x10] (.bz 0x10) ∧ reads [0x90, 0xFE] (.bnz 0xFE) ∧
    reads [0x7F, 0x01, 0x05] (.bp 0x101 7 5) ∧ reads [0x59, 0x18, 0x05] (.bpc 0x118 1 5) ∧ reads [0x9F, 0x01, 0x05] (.bn 0x101 7 5) ∧
    reads [0x52, 0x10, 0xFB] (.dbnzD9 0x010 0xFB) ∧ reads [0x54, 0xFE] (.dbnzInd 0 0xFE) ∧ reads [0x31, 0x05, 0x03] (.beImm 5 3) ∧
    reads [0x33, 0x00, 0x10] (.beD9 0x100 0x10) ∧ reads [0x36, 0x01, 0x02] (.beInd 2 1 2) ∧ reads [0x41, 0x05, 0xFD] (.bneImm 5 0xFD) ∧
    reads [0x42, 0x09, 0x01] (.bneD9 0x009 1) ∧ reads [0x45, 0x00, 0x08] (.bneInd 1 0 8) ∧ reads [0x08, 0x10] (.call 0x010) ∧
    reads [0x1E, 0x10] (.call 0xE10) ∧ reads [0x20, 0x12, 0x34] (.callf 0x1234) ∧ reads [0x10, 0x05, 0x00] (.callr 0x0005) ∧
    reads [0xA0] .ret := by decide

theorem test_decode_system : reads [0xB0] .reti ∧ reads [0x00] .nop ∧ reads [0x50] .ldf ∧ reads [0x51] .stf := by decide

/-- R114: no two rows of the opcode table share an opcode byte. -/
theorem test_rows_disjoint :
    opcodeRows.Pairwise (fun x y => x.mask &&& y.mask &&& (x.pattern ^^^ y.pattern) ≠ 0) := by decide

/-- R100: an operand byte that is missing is an error, not another instruction. -/
theorem test_truncated : (decode [0x21, 0x02]).isOk = false ∧ (decode []).isOk = false := by decide

/-- The table's bit numbering: the second byte is bits 15..8. -/
theorem test_table_word : decodeTableWord 24 0x7F0623 = some (.movD9 0x7F 0x106) ∧ decodeTableWord 8 0x07 = some (.ldInd 3) := by decide

/-- R116: the assembler's form, with targets as absolute addresses. -/
theorem test_assembly : (Instr.bp 0x101 7 0xFF).assembly 0x0100 = "BP PSW,7,258" ∧ (Instr.movInd 0x99 3).assembly 0 = "MOV #153,@R3" := by
  decide

/-! ## Data transfer (V-DT) -/

theorem test_ld_d9_bank1 : gives [0x02, 0x10] { m with psw := 0x02, ram := [(0x10, 0x11), (0x110, 0x77)] }
    (fun t => t.acc == 0x77 && t.pc == 0x0102) := by decide

theorem test_ld_ind_bank1 : gives [0x04] { m with psw := 0x02, ram := [(0x00, 0x20), (0x100, 0x30), (0x130, 0xBB)] }
    (fun t => t.acc == 0xBB && t.pc == 0x0101) := by decide

theorem test_ld_ind_r2 : gives [0x06] { m with acc := 0x33 } (fun t => t.acc == 0x33) := by decide

theorem test_st_then_ld_split : gives [0x13, 0x1B] { m with acc := 0x42 } (fun t => t.t1.lr == 0x42 && t.t1.l == 0x00 &&
    gives [0x03, 0x1B] t (fun u => u.acc == 0x00)) := by decide

theorem test_st_ind : gives [0x14] { m with acc := 0x44 } (fun t => t.ram == [(0, 0x44)]) := by decide

theorem test_mov_d9 : gives [0x23, 0x06, 0x7F] m (fun t => t.sp == 0x7F && t.pc == 0x0103) := by decide

theorem test_mov_ind : gives [0x27, 0x99] { m with ram := [(3, 0x03)] } (fun t => t.c == 0x99) := by decide

theorem test_ldc_wraps : gives [0xC1] { m with trh := 0xFF, trl := 0xFF, acc := 0x02, rom := [(1, 0x5C)] } (fun t => t.acc == 0x5C) := by
  decide

theorem test_ldc_out_of_range : faults [0xC1] { m with extOld := .flash, trh := 0x01, params := { params with flashSize := 0x100 } }
    (.outOfRange (.code .flash) 0x0100) := by decide

theorem test_push_sp : gives [0x61, 0x06] { m with sp := 0x7F } (fun t => t.sp == 0x80 && t.ram == [(0x80, 0x80)]) := by decide

theorem test_push_bank0 : gives [0x61, 0x00] { m with psw := 0x02, sp := 0xFF, acc := 0x99 }
    (fun t => t.sp == 0x00 && t.ram == [(0x00, 0x99)]) := by decide

theorem test_pop_sp : gives [0x71, 0x06] { m with sp := 0x80, ram := [(0x80, 0x50)] } (fun t => t.sp == 0x4F) := by decide

theorem test_pop_wraps : gives [0x71, 0x02] { m with ram := [(0x00, 0x12)] } (fun t => t.sp == 0xFF && t.b == 0x12) := by decide

theorem test_xch_d9 : gives [0xC3, 0x01] { m with acc := 0x01, psw := 0x80 } (fun t => t.acc == 0x80 && t.psw == 0x01) := by decide

theorem test_xch_ind : gives [0xC7] { m with acc := 0xAA, b := 0x55, ram := [(3, 0x02)] } (fun t => t.acc == 0x55 && t.b == 0xAA) := by decide

/-! ## Arithmetic (V-AR) -/

theorem test_add_imm : gives [0x81, 0x88] { m with acc := 0x88 } (fun t => t.acc == 0x10 && t.psw == 0xC4) ∧
    gives [0x81, 0x01] { m with acc := 0x7F } (fun t => t.acc == 0x80 && t.psw == 0x44) := by decide

theorem test_add_d9_psw : gives [0x83, 0x01] { m with acc := 0x01, psw := 0xC1 } (fun t => t.acc == 0xC2 && t.psw == 0x01) := by decide

theorem test_add_ind : gives [0x85] { m with acc := 0x80, ram := [(1, 0x20), (0x20, 0x80)] } (fun t => t.acc == 0x00 && t.psw == 0x84) := by
  decide

theorem test_addc_imm : gives [0x91, 0x00] { m with acc := 0xFF, psw := 0x80 } (fun t => t.acc == 0x00 && t.psw == 0xC0) := by decide

theorem test_addc_d9 : gives [0x92, 0x20] { m with acc := 0x0E, psw := 0x80, ram := [(0x20, 0x01)] }
    (fun t => t.acc == 0x10 && t.psw == 0x40) := by decide

theorem test_addc_ind : gives [0x94] { m with acc := 0x7F, psw := 0x80, ram := [(0, 0x20)] } (fun t => t.acc == 0x80 && t.psw == 0x44) := by
  decide

theorem test_sub_imm : gives [0xA1, 0xFF] { m with acc := 0x7F } (fun t => t.acc == 0x80 && t.psw == 0x84) ∧
    gives [0xA1, 0x20] { m with acc := 0x10 } (fun t => t.acc == 0xF0 && t.psw == 0x80) := by decide

theorem test_sub_d9 : gives [0xA2, 0x20] { m with acc := 0x80, ram := [(0x20, 0x01)] } (fun t => t.acc == 0x7F && t.psw == 0x44) := by decide

theorem test_sub_ind : gives [0xA4] { m with acc := 0x05, ram := [(0, 0x20), (0x20, 0x06)] } (fun t => t.acc == 0xFF && t.psw == 0xC0) := by
  decide

theorem test_subc_imm : gives [0xB1, 0x0F] { m with acc := 0x10, psw := 0x80 } (fun t => t.acc == 0x00 && t.psw == 0x40) := by decide

theorem test_subc_d9 : gives [0xB2, 0x20] { m with acc := 0x80, psw := 0x80, ram := [(0x20, 0x7F)] }
    (fun t => t.acc == 0x00 && t.psw == 0x44) := by decide

theorem test_subc_ind : gives [0xB4] { m with psw := 0x80, ram := [(0, 0x20)] } (fun t => t.acc == 0xFF && t.psw == 0xC0) := by decide

theorem test_mul : gives [0x30] { m with acc := 0xFF, c := 0xFF, b := 0xFF } (fun t => t.b == 0xFE && t.acc == 0xFF && t.c == 0x01 && t.psw == 0x04) ∧
    gives [0x30] { m with c := 0xFF, b := 0x02, psw := 0x84 } (fun t => t.b == 0x00 && t.acc == 0x01 && t.c == 0xFE && t.psw == 0x00) := by decide

theorem test_div : gives [0x40] { m with acc := 0x01, b := 0x03 } (fun t => t.acc == 0x00 && t.c == 0x55 && t.b == 0x01 && t.psw == 0x00) ∧
    gives [0x40] { m with acc := 0xFF, c := 0xFF, b := 0xFF } (fun t => t.acc == 0x01 && t.c == 0x01 && t.b == 0x00) := by decide

theorem test_div_zero : gives [0x40] { m with acc := 0x12, psw := 0xC0 } (fun t => t.psw == 0x44 && t.pc == 0x0101) := by decide

theorem test_inc_d9 : gives [0x63, 0x1B] { m with psw := 0xC4, t1 := { Timer1.atReset with l := 0x10, lr := 0x80 } }
    (fun t => t.t1.lr == 0x11 && t.t1.l == 0x10 && t.psw == 0xC4) ∧
    gives [0x62, 0x20] { m with ram := [(0x20, 0xFF)] } (fun t => t.ram == []) := by decide

theorem test_inc_ind : gives [0x64] m (fun t => t.ram == [(0, 0x01)]) := by decide

theorem test_dec_d9 : gives [0x73, 0x00] { m with psw := 0xC4 } (fun t => t.acc == 0xFF && t.psw == 0xC4) := by decide

theorem test_dec_ind : gives [0x75] { m with ram := [(1, 0x30)] } (fun t => t.ram == [(1, 0x30), (0x30, 0xFF)]) := by decide

/-! ## Logic and rotates (V-LG) -/

theorem test_and_imm : gives [0xE1, 0x0F] { m with acc := 0x5A, psw := 0xC4 } (fun t => t.acc == 0x0A && t.psw == 0xC4) := by decide

theorem test_and_d9 : gives [0xE3, 0x00] { m with acc := 0x5A } (fun t => t.acc == 0x5A && t.pc == 0x0102) := by decide

theorem test_and_ind : gives [0xE4] { m with acc := 0x5A, ram := [(0, 0x0F), (0x0F, 0x0F)] } (fun t => t.acc == 0x0A) := by decide

theorem test_or_imm : gives [0xD1, 0xA5] { m with acc := 0x5A, psw := 0xC4 } (fun t => t.acc == 0xFF && t.psw == 0xC4) := by decide

theorem test_or_d9 : gives [0xD2, 0x20] { m with acc := 0x50, ram := [(0x20, 0x11)] } (fun t => t.acc == 0x51) := by decide

theorem test_or_ind : gives [0xD6] { m with acc := 0x50, ram := [(2, 0x02)], b := 0x05 } (fun t => t.acc == 0x55) := by decide

theorem test_xor_imm : gives [0xF1, 0xFF] { m with acc := 0x5A, psw := 0xC4 } (fun t => t.acc == 0xA5 && t.psw == 0xC4) := by decide

theorem test_xor_d9 : gives [0xF3, 0x00] { m with acc := 0x5A } (fun t => t.acc == 0x00) := by decide

theorem test_xor_ind : gives [0xF7] { m with acc := 0x5A, ram := [(3, 0x03)], c := 0x0F } (fun t => t.acc == 0x55) := by decide

theorem test_rol : gives [0xE0] { m with acc := 0x80 } (fun t => t.acc == 0x01 && t.psw == 0x00) ∧
    gives [0xE0] { m with acc := 0xAA, psw := 0x80 } (fun t => t.acc == 0x55 && t.psw == 0x80) := by decide

theorem test_rolc : gives [0xF0] { m with acc := 0x80, psw := 0x44 } (fun t => t.acc == 0x00 && t.psw == 0xC4) ∧
    gives [0xF0] { m with acc := 0x01, psw := 0x80 } (fun t => t.acc == 0x03 && t.psw == 0x00) := by decide

theorem test_ror : gives [0xC0] { m with acc := 0x01, psw := 0x80 } (fun t => t.acc == 0x80 && t.psw == 0x80) := by decide

theorem test_rorc : gives [0xD0] { m with acc := 0x55 } (fun t => t.acc == 0x2A && t.psw == 0x80) ∧
    gives [0xD0] { m with acc := 0xAA, psw := 0x80 } (fun t => t.acc == 0xD5 && t.psw == 0x00) := by decide

/-! ## Bits (L1-1, V-BT) -/

theorem test_set1 : gives [0xFF, 0x01] { m with psw := 0x45 } (fun t => t.psw == 0xC5) ∧ gives [0xFF, 0x08] m (fun t => t.ie == 0x80) := by decide

theorem test_clr1 : gives [0xDE, 0x01] { m with psw := 0xC5 } (fun t => t.psw == 0x85) ∧
    gives [0xD9, 0x18] (timed 0x43 0 0 0 0 true) (fun t => t.t1.cnt == 0x41) := by decide

theorem test_not1 : gives [0xBB, 0x1B] { m with t1 := { Timer1.atReset with lr := 0x55 } } (fun t => t.t1.lr == 0x08 && t.t1.l == 0x00) ∧
    gives [0xAF, 0x40] { m with ram := [(0x40, 0x0F)] } (fun t => t.ram == [(0x40, 0x8F)]) := by decide

/-! ## Control transfer (L1-3, V-CT) -/

theorem test_jmp : gives [0x3F, 0xFF] { m with pc := 0x1234 } (fun t => t.pc == 0x1FFF) ∧
    gives [0x28, 0x00] { m with pc := 0x0FFE } (fun t => t.pc == 0x1000) := by decide

theorem test_jmpf : gives [0x21, 0x02, 0x00] m (fun t => t.pc == 0x0200) := by decide

theorem test_br : gives [0x01, 0x80] { m with pc := 0x0000 } (fun t => t.pc == 0xFF82) ∧ gives [0x01, 0x7F] m (fun t => t.pc == 0x0181) := by decide

theorem test_brf : gives [0x11, 0xFE, 0xFF] m (fun t => t.pc == 0x0100) ∧ gives [0x11, 0x05, 0x00] m (fun t => t.pc == 0x0107) := by decide

theorem test_bz : gives [0x80, 0x10] m (fun t => t.pc == 0x0112) ∧ gives [0x80, 0x10] { m with acc := 1 } (fun t => t.pc == 0x0102) := by decide

theorem test_bnz : gives [0x90, 0xFE] { m with acc := 1 } (fun t => t.pc == 0x0100) ∧ gives [0x90, 0xFE] m (fun t => t.pc == 0x0102) := by decide

theorem test_bp : gives [0x7F, 0x01, 0x80] { m with psw := 0x80 } (fun t => t.pc == 0x0083) := by decide

theorem test_bn : gives [0x9F, 0x01, 0x05] { m with psw := 0x80 } (fun t => t.pc == 0x0103) ∧ gives [0x9F, 0x01, 0x05] m (fun t => t.pc == 0x0108) := by
  decide

theorem test_bpc : gives [0x59, 0x18, 0x05] (timed 0x42 0 0 0 0 true) (fun t => t.pc == 0x0108 && t.t1.cnt == 0x40) ∧
    gives [0x59, 0x18, 0x05] (timed 0x40 0 0 0 0 true) (fun t => t.pc == 0x0103 && t.t1.cnt == 0x40) := by decide

/-- R267: at a split address BPC tests the count and writes the reload latch only when the bit was 1. -/
theorem test_bpc_writes_only_when_one : gives [0x58, 0x1B, 0x05] { m with t1 := { Timer1.atReset with l := 0x02, lr := 0x55 } }
    (fun t => t.t1.lr == 0x55 && t.pc == 0x0103) := by decide

theorem test_dbnz_d9 : gives [0x52, 0x10, 0xFB] m (fun t => t.pc == 0x00FE && t.ram == [(0x10, 0xFF)]) ∧
    gives [0x52, 0x10, 0xFB] { m with ram := [(0x10, 0x01)] } (fun t => t.pc == 0x0103 && t.ram == []) := by decide

theorem test_dbnz_ind : gives [0x54, 0xFE] { m with ram := [(0, 0x30), (0x30, 0x02)] }
    (fun t => t.pc == 0x0100 && t.ram == [(0, 0x30), (0x30, 0x01)]) := by decide

theorem test_be_imm : gives [0x31, 0x05, 0x03] { m with acc := 5, psw := 0x80 } (fun t => t.pc == 0x0106 && t.psw == 0x00) ∧
    gives [0x31, 0x05, 0x03] { m with acc := 3 } (fun t => t.pc == 0x0103 && t.psw == 0x80) := by decide

theorem test_be_d9 : gives [0x33, 0x00, 0x10] { m with acc := 0x22, psw := 0x80 } (fun t => t.pc == 0x0113 && t.psw == 0x00) := by decide

theorem test_be_ind : gives [0x34, 0x07, 0x10] { m with acc := 0x07, ram := [(0, 0x20), (0x20, 0x06)] }
    (fun t => t.pc == 0x0103 && t.psw == 0x80) := by decide

theorem test_bne_imm : gives [0x41, 0x05, 0xFD] { m with acc := 4 } (fun t => t.pc == 0x0100 && t.psw == 0x80) := by decide

theorem test_bne_d9 : gives [0x43, 0x00, 0x10] { m with acc := 0x22, psw := 0x80 } (fun t => t.pc == 0x0103 && t.psw == 0x00) := by decide

theorem test_bne_ind : gives [0x45, 0x00, 0x08] { m with ram := [(1, 0x50), (0x50, 0xFF)] } (fun t => t.pc == 0x010B && t.psw == 0x00) := by decide

theorem test_call : gives [0x08, 0x10] { m with pc := 0x0002, sp := 0x7F } (fun t => t.pc == 0x0010 && t.sp == 0x81 && t.ram == [(0x80, 0x04)]) ∧
    gives [0x08, 0x00] { m with pc := 0xFFFE, sp := 0xFF } (fun t => t.pc == 0x0000 && t.sp == 0x01 && t.ram == []) := by decide

theorem test_callf : gives [0x20, 0x12, 0x34] { m with sp := 0x7F }
    (fun t => t.pc == 0x1234 && t.sp == 0x81 && t.ram == [(0x80, 0x03), (0x81, 0x01)]) := by decide

theorem test_callr : gives [0x10, 0xFE, 0xFF] { m with sp := 0x7F }
    (fun t => t.pc == 0x0100 && t.sp == 0x81 && t.ram == [(0x80, 0x03), (0x81, 0x01)]) := by decide

theorem test_ret : gives [0xA0] { m with sp := 0x81, ram := [(0x80, 0x04)], inService := [.t1] }
    (fun t => t.pc == 0x0004 && t.sp == 0x7F && t.inService == [.t1]) := by decide

/-! ## System (V-SY) -/

theorem test_nop : gives [0x00] { m with pc := 0x0000 } (fun t => decide (t = { m with pc := 0x0001 })) := by decide

theorem test_reti : gives [0xB0] { m with sp := 0x81, ram := [(0x80, 0x23), (0x81, 0x01)], inService := [.t1, .int0] }
    (fun t => t.pc == 0x0123 && t.sp == 0x7F && t.inService == [.t1]) := by decide

theorem test_reti_psw : gives [0xB0]
    { m with
      sp := 0x82, ram := [(0x80, 0x23), (0x81, 0x01), (0x82, 0xC0)], inService := [.t1]
      params := { params with entrySavesPsw := true } }
    (fun t => t.psw == 0xC0 && t.pc == 0x0123 && t.sp == 0x7F && t.inService == []) := by decide

theorem test_ldf : gives [0x50] { m with fpr := 0x01, trl := 0x10, flash := [(0x10010, 0x42)] } (fun t => t.acc == 0x42) ∧
    faults [0x50] { m with fpr := 0x01, trl := 0x10, params := { params with flashSize := 0x10000 } } (.outOfRange .flash 0x10010) := by decide

theorem test_stf : gives [0x51] { m with trh := 0x02, acc := 0x5A }
    (fun t => t.flash == [(0x200, 0x5A)] && t.codeByte .flash 0x0200 == some 0x5A) := by decide

/-! ## The other values of the parameters of R6 (logs 9, 10) -/

/-- A halted machine waits one tick, and an interrupt at its boundary ends the halt, with the ticks of the entry. -/
theorem test_halt : stepGives asleep (fun t => t.pc == 0x0100 && t.pcon == 0x03 && t.t1.cycles == 1) ∧
    stepGives { asleep with env := [[.int0]] } (fun t => t.pc == 0x0003 && t.pcon == 0x02 && t.t1.cycles == 5) := by decide

/-- With the values of R6 PCON stops nothing, and an entry takes no tick. -/
theorem test_halt_ignored : stepGives { asleep with params := params, env := [[.int0]] }
    (fun t => t.pc == 0x0003 && t.pcon == 0x03 && t.t1.cycles == 1 && t.ram == [(0x80, 0x01), (0x81, 0x01)]) := by decide

theorem test_stf_unspecified : gives [0x51] { m with trh := 0x02, params := otherParams }
    (fun t => t.draws == 1 && t.pc == 0x0101) := by decide

/-! ## The parity mode of PSW.P (R35, R156) -/

theorem test_parity : gives [0x81, 0x01] { m with params := { params with pMode := .parity } } (fun t => t.acc == 0x01 && t.psw == 0x01) ∧
    gives [0x23, 0x01, 0xFE] { m with acc := 0x01, psw := 0x01, params := { params with pMode := .parity } } (fun t => t.psw == 0xFF) := by decide

/-! ## The poll (V-IN) -/

theorem test_poll_enters : { polled with latches := Latches.none.set .t1 }.processInterrupts =
    { polled with ram := [(0x80, 0x34), (0x81, 0x12)], sp := 0x81, inService := [.t1], pc := 0x002B } := by decide

theorem test_poll_saves_psw :
    (({ polled with psw := 0xC0, latches := Latches.none.set .t1, params := { params with entrySavesPsw := true } } : State).processInterrupts).ram =
    [(0x80, 0x34), (0x81, 0x12), (0x82, 0xC0)] := by decide

theorem test_poll_nests : ({ polled with latches := (Latches.none.set .int0).set .sio0, inService := [.t1] } : State).pending = some .int0 ∧
    ({ polled with latches := (Latches.none.set .t1).set .sio0, inService := [.t1] } : State).pending = none ∧
    ({ polled with latches := (Latches.none.set .sio0).set .rfb } : State).pending = some .sio0 := by decide

theorem test_poll_masked : ({ polled with ie := 0x7F, latches := Latches.none.set .t1 } : State).processInterrupts =
    { polled with ie := 0x7F, latches := Latches.none.set .t1 } := by decide

/-! ## Timer 1 (V-T) -/

theorem test_timer_first_tick : tickIs (timed 0x41 250 0 0 0 false) 250 0 0x41 false [.setPeriod 250, .setEnabled true] := by decide

theorem test_timer_low : tickIs (timed 0x40 7 0 255 0 true) 7 0 0x42 false [.setEnabled true] := by decide

theorem test_timer_high : tickIs (timed 0xC4 0 0x80 0x10 0xFF true) 0x11 0x80 0xCC true [.setEnabled true] := by decide

theorem test_timer_both : tickIs (timed 0xC5 1 2 0xFF 0xFF true) 1 2 0xCF true [.setEnabled true] := by decide

theorem test_timer_cascade : tickIs (timed 0x64 0x10 0x20 0xFE 0 true) 0x10 0x21 0x64 false [.setEnabled false] ∧
    tickIs (timed 0x64 0x10 0x20 0xFF 0 true) 0x10 0x21 0x64 false [.setEnabled false] := by decide

theorem test_timer_cascade_carries : tickIs (timed 0xE4 0xFE 0xFF 0xFF 0xFF true) 0xFE 0xFF 0xEE true [.setEnabled false] ∧
    tickIs (timed 0x64 0x10 0xFF 0xFF 0 true) 0x10 0xFF 0x6E true [.setEnabled false] := by decide

/-- V-T12: a device address gives a free byte and takes one draw. -/
theorem test_timer_cascade_device : ({ timed 0xE0 0 0 0xFF 0x10 true with params := { params with cascadeLowReload := 0x113 } } : State).tick.draws = 1 ∧
    ({ timed 0xE0 0 0 0xFF 0x10 true with params := { params with cascadeLowReload := 0x113 } } : State).tick.t1.hi = 0x11 := by decide

theorem test_timer_disabled : tickIs (timed 0x00 250 9 200 5 true) 250 9 0x00 false [.setEnabled false] := by decide

/-! ## Steps, reset and the host's operations -/

/-- R55: the bytes of RAM the host supplies. -/
theorem test_supplied : Memory.supplied [(1, 0x05), (3, 0x00)] (fun _ => 0x07) 4 = [(0, 0x07), (1, 0x05), (2, 0x07)] := by decide

/-- V-RS: one step from reset runs the 0x00 that reset memory holds. -/
theorem test_step_from_reset : stepGives State.reset (fun t => t.pc == 0x0001 && t.run == .started) := by decide

theorem test_fetch_word : stepGives (State.reset.withFetchWord 24 0x7F0623) (fun t => t.pc == 0x0003 && t.sp == 0x7F) := by decide

/-- L1-7: the operand comes from the old bank, and the instruction after the next from the new one. -/
theorem test_bank_latency : stepGives { m with rom := [(0x100, 0xF8), (0x101, 0x0D)], flash := [(0x101, 0xFF)] }
    (fun t => t.ext == 0x01 && t.extOld == .rom && t.extNew == .rom && stepGives t (fun u => u.extOld == .rom && u.extNew == .flash)) := by decide

/-- R144, R301: the fault carries pc0 and the opcode, and the bank latch has advanced. -/
theorem test_illegal_opcode : ({ m with params := { params with unimplemented := [0x00] } } : State).processInstruction false =
    (.fault (.illegalOpcode 0x0100 0x00), { m with params := { params with unimplemented := [0x00] } }) := by decide

/-- R312: the environment's sets of a boundary reach the poll of the same step. -/
theorem test_environment : stepGives { m with ie := 0x80, sp := 0x7F, env := [[.int1]] } (fun t => t.pc == 0x000B && t.inService == [.int1]) := by decide

theorem test_hle : (m.performHle 0x11234).pc = 0x1234 ∧ (m.performHle 0x11234).run = .stopped := by decide

/-! ## Memory -/

/-- Storing what an unlisted address reads as takes the entry out; addresses stay rising. -/
theorem test_memory_canonical : Memory.write [(1, 5), (3, 6)] 1 0 = [(3, 6)] ∧ Memory.write [(1, 5), (3, 6)] 2 9 = [(1, 5), (2, 9), (3, 6)] := by
  decide

/-! ## Witnesses: states and operands that meet the hypotheses of the statements -/

/-- EncodeInvertsDecode. -/
theorem witness_decode : decode [0x23, 0x06, 0x7F, 0x01] = .ok (.movD9 0x7F 0x106, [0x01]) := rfl

/-- AssembledTargetsAreReached: targets in and out of the block, and the ends of the short range. -/
theorem witness_targets : a12For 0x0FFE 0x1000 = some 0x000 ∧ a12For 0x0FFD 0x1000 = none ∧ r8For 2 0x0000 0xFF82 = some 0x80 ∧
    r8For 2 0x0100 0x0181 = some 0x7F ∧ r8For 2 0x0100 0x0182 = none ∧ r8For 3 0x0100 0x0082 = none := by decide

/-- StepRunsDecodedInstruction: one and three bytes. -/
theorem witness_step_runs :
    m.halted = false ∧ (decode [0x00] = .ok (.nop, []) ∧ Instr.nop.wellFormed m.params.unimplemented = true ∧
      ∀ k, k < 1 → m.codeByte m.extNew (m.pc + BitVec.ofNat 16 k) = [0x00][k]?) ∧
    (decode [0x23, 0x06, 0x7F] = .ok (.movD9 0x7F 0x106, []) ∧ (Instr.movD9 0x7F 0x106).wellFormed m.params.unimplemented = true ∧
      ∀ k, k < 3 → ({ m with pc := 0xFFFE, rom := [(0x0000, 0x7F), (0xFFFE, 0x23), (0xFFFF, 0x06)] } : State).codeByte .rom
        (0xFFFE + BitVec.ofNat 16 k) = [(0x23 : Byte), 0x06, 0x7F][k]?) :=
  ⟨by decide, ⟨rfl, by decide, by decide⟩, rfl, by decide, by decide⟩

/-- FetchFaults, clause 1: the first address the region does not have. In each clause the step is not suspended. -/
theorem witness_fetch_opcode : ({ m with params := { params with romSize := 0x100 } } : State).codeSize .rom ≤ 0x0100 ∧
    m.halted = false := by decide

/-- FetchFaults, clause 2. -/
theorem witness_fetch_illegal : let s : State := { m with params := { params with unimplemented := [0x00] } }
    s.pc.toNat < s.codeSize s.extNew ∧ s.regionByte s.extNew s.pc.toNat = 0x00 ∧ (0x00 : Byte) ∈ s.params.unimplemented ∧
    s.halted = false := by decide

/-- FetchFaults, clause 3: the region ends right after the opcode. -/
theorem witness_fetch_first_operand : let s : State := { m with rom := [(0x100, 0x12)], params := { params with romSize := 0x101 } }
    s.pc.toNat < s.codeSize s.extNew ∧ s.regionByte s.extNew s.pc.toNat = 0x12 ∧ (0x12 : Byte) ∉ s.params.unimplemented ∧
    2 ≤ specLength 0x12 ∧ s.codeSize s.extNew ≤ (s.pc + 1).toNat ∧ s.halted = false := by decide

/-- FetchFaults, clause 4: the region ends right after the first operand byte. -/
theorem witness_fetch_second_operand : let s : State := { m with rom := [(0x100, 0x21)], params := { params with romSize := 0x102 } }
    s.pc.toNat < s.codeSize s.extNew ∧ s.regionByte s.extNew s.pc.toNat = 0x21 ∧ (0x21 : Byte) ∉ s.params.unimplemented ∧
    specLength 0x21 = 3 ∧ (s.pc + 1).toNat < s.codeSize s.extNew ∧ s.codeSize s.extNew ≤ (s.pc + 2).toNat ∧
    s.halted = false := by decide

/-- FaultLeavesNoPartialResult: a fault of the fetch, and one of LDF; and a step that is not suspended. -/
theorem witness_fault : m.halted = false ∧ (({ m with params := { params with romSize := 0 } } : State).processInstruction false).1 =
    .fault (.outOfRange (.code .rom) 0x0100) ∧
    (({ m with rom := [(0x100, 0x50)], params := { params with flashSize := 0 } } : State).processInstruction false).1 =
    .fault (.outOfRange .flash 0x0000) := by decide

/-- StepAdvancesBankLatch, BankSwitchTakesTwoSteps and StepCountsItsTicks: three steps, the first a SET1 EXT,0; and a step that
waits. -/
theorem witness_steps : (let s : State := { m with rom := [(0x100, 0xF8), (0x101, 0x0D)] }
    ∃ t u v, step s = .next t ∧ step t = .next u ∧ step u = .next v ∧ s.halted = false ∧ t.halted = false ∧ u.halted = false) ∧
    asleep.halted = true ∧ ∃ t, step asleep = .next t :=
  ⟨⟨_, _, _, rfl, rfl, rfl, rfl, rfl, rfl⟩, rfl, _, rfl⟩

/-- InstructionsLeaveTheRestAlone. -/
theorem witness_exec : (∃ t, exec .nop m = .next t) ∧ Instr.nop ≠ .reti ∧ Instr.nop ≠ .stf := ⟨⟨_, rfl⟩, by decide, by decide⟩

/-- A state with something in every place the invariants speak of. -/
def busy : State :=
  { m with
    acc := 0x07, psw := 0x01, ie := 0x80, ram := [(0x000, 0x01), (0x1FF, 0xFF)], rom := [(0xFFFF, 0x02)], flash := [(0x1FFFF, 0x03)],
    inService := [.p3, .t1, .int0], t1 := { Timer1.atReset with cnt := 0xC0, l := 255, lo := 255, h := 255, hi := 255, loStarted := true },
    params := { params with pMode := .parity } }

/-- The four invariants of a step, and NestingIsBounded. -/
theorem witness_invariants : (busy.MemoryCanonical ∧ busy.TimerMirrored ∧ busy.NestedByRank ∧ busy.ParityHolds) ∧ ∃ t, step busy = .next t :=
  ⟨⟨by unfold State.MemoryCanonical; decide, by unfold State.TimerMirrored; decide, by unfold State.NestedByRank; decide,
    fun _ => by decide⟩, _, rfl⟩

/-- ResetMeetsInvariants, ConstructionResets and HleDiffersOnlyInPc: a supplied RAM byte, and canonical ROM and Flash. -/
theorem witness_construct :
    (Memory.wf [(0xFFFF, 0x01)] ∧ Memory.within params.romSize [(0xFFFF, 0x01)]) ∧
    (Memory.wf [(0x1FFFF, 0x01)] ∧ Memory.within params.flashSize [(0x1FFFF, 0x01)]) ∧
    ∃ s, construct params Config.initialRam (some [(0x1FF, 0x01)]) (some [(0xFFFF, 0x01)]) (some [(0x1FFFF, 0x01)]) (some Latches.none)
      true = .ok s :=
  ⟨by decide, by decide, _, rfl⟩

/-- ConstructionResets: each of the four references missing. -/
theorem witness_missing_reference :
    (∀ p draw ic, construct p draw none (some []) (some []) ic true = .error .missingReference) ∧
    (∀ p draw ic, construct p draw (some []) none (some []) ic false = .error .missingReference) ∧
    (∀ p draw ic, construct p draw (some []) (some []) none ic true = .error .missingReference) ∧
    ∀ p draw, construct p draw (some []) (some []) (some []) none false = .error .missingReference :=
  ⟨fun _ _ _ => rfl, fun _ _ _ => rfl, fun _ _ _ => rfl, fun _ _ => rfl⟩

/-- NestingIsBounded: eleven sources in service. -/
theorem witness_nested : ({ m with inService := Source.scanOrder.reverse } : State).NestedByRank := by unfold State.NestedByRank; decide

/-- CanonicalMemoriesAgree. -/
theorem witness_memories : Memory.wf [(1, 0x05), (3, 0x06)] ∧ ∀ a, Memory.read [(1, 0x05), (3, 0x06)] a = Memory.read [(1, 0x05), (3, 0x06)] a :=
  ⟨by decide, fun _ => rfl⟩

/-- NoRunFaultsWithFullRegions: exactly the sizes of R6. -/
theorem witness_full_regions : 0x10000 ≤ m.params.romSize ∧ 0x20000 ≤ m.params.flashSize ∧ m.params.unimplemented = [] := by decide

/-- PollEntersFirstEligible, its three clauses. -/
theorem witness_poll : m.ie.getLsbD 7 = false ∧
    (polled.ie.getLsbD 7 = true ∧ ∀ src, ¬ polled.MayEnter src) ∧
    (let s : State := { polled with latches := (Latches.none.set .t1).set .sio0, inService := [.sio0] };
      s.ie.getLsbD 7 = true ∧ s.MayEnter .t1 ∧ ∀ other, s.MayEnter other → Source.t1.rank ≤ other.rank) :=
  ⟨by decide, ⟨by decide, fun src h => by cases src <;> exact absurd h.1 (by decide)⟩, by decide,
    ⟨by decide, .inr ⟨.sio0, rfl, by decide⟩⟩, fun other h => by cases other <;> first | decide | exact absurd h.1 (by decide)⟩

/-- EntryTicksAndHalt: a poll that enters nothing and one that enters, both HALT models, and a halted state. -/
theorem witness_other_params : polled.taken = none ∧ polled.params.entryTicks = 0 ∧ polled.params.haltModel = .ignored ∧
    (asleep.setLatch .int0).taken = some .int0 ∧ asleep.params.haltModel = .suspends ∧ asleep.halted = true := by decide

/-- RetiReturns: both values of the parameter, and both of P_MODE. -/
theorem witness_reti : m.params.entrySavesPsw = false ∧ ({ params with entrySavesPsw := true } : Params).entrySavesPsw = true ∧
    m.params.pMode = .stored ∧ busy.params.pMode = .parity := by decide

/-- TickCountsAndOverflows: a cascade address in RAM, in the block and at a device, at the ends of each range. -/
theorem witness_cascade : (0x0FF : DataAddr).toNat < 0x100 ∧ ((0x154 : DataAddr) ∈ ownedAddrs ∧ (0x154 : DataAddr) ≠ 0x11B ∧ (0x154 : DataAddr) ≠ 0x11D) ∧
    DeviceAddr 0x10A ∧ DeviceAddr 0x1FF := by decide

/-- DataSpaceReads and DataSpaceWrites: the ends of the RAM range, and device addresses at the ends of theirs. -/
theorem witness_data_space : (0x000 : DataAddr).toNat < 0x100 ∧ (0x0FF : DataAddr).toNat < 0x100 ∧
    (∀ a ∈ [(0x10A : DataAddr), 0x119, 0x155, 0x1FF], 0x100 ≤ a.toNat ∧
      a ∉ [(0x100 : DataAddr), 0x101, 0x102, 0x103, 0x104, 0x105, 0x106, 0x107, 0x108, 0x109, 0x10D, 0x118, 0x11A, 0x11B, 0x11C, 0x11D, 0x154]) ∧
    m.params.pMode = .stored ∧ busy.params.pMode = .parity := by decide

/-- FlagsAreIndependent: P when it is stored, another flag when it is not. -/
theorem witness_flags : (m.params.pMode = .stored ∨ Flag.p ≠ .p) ∧ (busy.params.pMode = .stored ∨ Flag.cy ≠ .p) := by decide

/-- LdcReadsCode: an address the region has, and the first it does not have. -/
theorem witness_ldc : ({ m with trh := 0xFF, trl := 0xFF } : State).tableAddr.toNat < m.codeSize .rom ∧
    ({ m with params := { params with romSize := 0x0102 } } : State).codeSize .rom ≤ (0x01 * 256 + 0x01 + 0x01) % 65536 := by decide

/-- DivGivesQuotientAndRemainder. -/
theorem witness_div : ({ m with b := 1 } : State).b ≠ 0 ∧ m.b = 0 := by decide

/-- RotatesMoveBits: bit numbers at the ends of each range. -/
theorem witness_bit_numbers : (1 ≤ 1 ∧ 1 < 8) ∧ (1 ≤ 7 ∧ 7 < 8) ∧ 0 < 7 ∧ 6 < 7 := by decide

/-- BitBranches: a byte whose bit is 0 and one whose bit is 1. -/
theorem witness_bit_branches : (m.dataByte 0x118).getLsbD 7 = false ∧ (busy.dataByte 0x118).getLsbD 7 = true := by decide

/-- LdfReadsFlash and StfWritesFlash: the last address the Flash has, and the first it does not have. -/
theorem witness_flash : ({ m with fpr := 0xFF, trh := 0xFF, trl := 0xFF } : State).flashAddr.toNat < m.params.flashSize ∧
    ({ m with fpr := 0x01 } : State).flashAddr.toNat = 0x10000 ∧ ({ params with flashSize := 0x10000 } : Params).flashSize ≤ 0x10000 := by decide

/-- StfWritesFlash and FlashStoreIsFetched: both models of a Flash write. -/
theorem witness_flash_store : m.fpr.getLsbD 0 = false ∧ (∃ t, exec .stf { m with trh := 0x02, acc := 0x5A } = .next t) ∧
    m.params.flashWriteModel = .plain ∧ otherParams.flashWriteModel = .unspecified ∧
    ({ m with params := otherParams } : State).flashAddr.toNat < otherParams.flashSize := ⟨by decide, ⟨_, rfl⟩, by decide⟩

end Sys2Proof.Machine.Tests
end

section
/-! PROOF. The poll of a step with every value of ENTRY_TICKS and HALT_MODEL (R6, R320, R322, R323, R360, R376). -/

namespace Sys2Proof.Machine

/-! ## The source the poll enters -/

/-- In a list whose keys increase, the first element that meets p is the element of least key among those that meet it. -/
theorem find?_eq_some_iff_least {α : Type} {key : α → Nat} {p : α → Bool} {xs : List α} {x : α}
    (hsorted : xs.Pairwise fun a b => key a < key b) :
    xs.find? p = some x ↔ x ∈ xs ∧ p x = true ∧ ∀ y ∈ xs, p y = true → key x ≤ key y := by
  induction xs with
  | nil => simp
  | cons a xs ih =>
    obtain ⟨ha, htail⟩ := List.pairwise_cons.mp hsorted
    cases hp : p a with
    | false =>
      have hne : p x = true → x ≠ a := by rintro hx rfl; simp [hp] at hx
      rw [List.find?_cons_of_neg (by simp [hp]), ih htail]
      simp only [List.mem_cons, forall_eq_or_imp, hp, Bool.false_eq_true, false_implies, true_and]
      exact and_congr_left fun h => (or_iff_right (hne h.1)).symm
    | true =>
      rw [List.find?_cons_of_pos hp, Option.some_inj]
      constructor
      · rintro rfl
        refine ⟨List.mem_cons_self, hp, fun y hy _ => ?_⟩
        rcases List.mem_cons.mp hy with rfl | hy
        · exact le_rfl
        · exact (ha y hy).le
      · rintro ⟨hx, -, hleast⟩
        rcases List.mem_cons.mp hx with rfl | hx
        · rfl
        · exact absurd (ha x hx) (hleast a List.mem_cons_self hp).not_gt

theorem mem_scanOrder (src : Source) : src ∈ Source.scanOrder := by cases src <;> decide

/-- The poll scans in the order of rank (R320, R321). -/
theorem scanOrder_increasing : Source.scanOrder.Pairwise fun a b => a.rank < b.rank := by decide

theorem eligible_iff (s : State) (src : Source) :
    s.eligible src = true ↔
      s.inService = [] ∨ ∃ top, s.inService.getLast? = some top ∧ src.rank < top.rank := by
  unfold State.eligible
  cases h : s.inService.getLast? with
  | none => simp [List.getLast?_eq_none_iff.mp h]
  | some top =>
    have hne : s.inService ≠ [] := by rintro he; simp [he] at h
    simp [hne]

theorem mayEnter_iff (s : State) (src : Source) :
    s.MayEnter src ↔ (s.getLatch src && s.eligible src) = true := by
  rw [Bool.and_eq_true, eligible_iff, State.MayEnter]

theorem pending_eq_some_iff (s : State) (src : Source) :
    s.pending = some src ↔ s.MayEnter src ∧ ∀ other, s.MayEnter other → src.rank ≤ other.rank := by
  simp only [State.pending, find?_eq_some_iff_least scanOrder_increasing, mem_scanOrder, true_and, true_implies, mayEnter_iff]

theorem taken_eq_some_iff (s : State) (src : Source) :
    s.taken = some src ↔
      s.ie.getLsbD 7 = true ∧ s.MayEnter src ∧ ∀ other, s.MayEnter other → src.rank ≤ other.rank := by
  rw [State.taken, Option.ite_none_right_eq_some, pending_eq_some_iff]

/-! ## HALT -/

theorem wokenPcon_of_ignored {s : State} (h : s.params.haltModel = .ignored) : s.wokenPcon = s.pcon := by
  rw [State.wokenPcon, h]

theorem wokenPcon_getLsbD_of_suspends {s : State} (h : s.params.haltModel = .suspends) (k : Nat) :
    s.wokenPcon.getLsbD k = if k = 0 then false else s.pcon.getLsbD k := by
  rw [State.wokenPcon, h]
  exact putBit_getLsbD _ _ _ _ (by omega)

/-- An entry changes neither PCON nor the parameters, so the halt it ends is that of the state before it. -/
theorem wake_enter (s : State) (src : Source) : (s.enter src).wake = { s.enter src with pcon := s.wokenPcon } := by
  have hpcon : (s.enter src).wokenPcon = s.wokenPcon := by simp [State.wokenPcon]
  rw [← hpcon]
  rfl

/-! ## The poll and the waiting step -/

theorem poll_eq_tickN_of_some {s : State} {src : Source} (h : s.taken = some src) :
    s.poll = State.tickN s.params.entryTicks { s.enter src with pcon := s.wokenPcon } := by
  rw [poll_of_some h, wake_enter, ticks_eq_tickN]

theorem idleTurn_eq (s : State) : s.idleTurn = (State.tickN 1 s.boundary).poll := by
  rw [State.idleTurn, State.finish, ticks_eq_tickN]

/-- Settles O60: the source taken is the least in rank the poll may enter, by the increasing scan order; the rest is the poll's two
cases and the two HALT models. -/
theorem entryTicksAndHalt : Obligations.EntryTicksAndHalt := fun s =>
  ⟨taken_eq_some_iff s,
    poll_of_none,
    fun _ => poll_eq_tickN_of_some,
    poll_eq_processInterrupts,
    wokenPcon_of_ignored,
    wokenPcon_getLsbD_of_suspends,
    halted_iff s,
    fun h => by rw [step_of_halted h, idleTurn_eq]⟩

end Sys2Proof.Machine
end

section
/-! PROOF. The parity of ACC in PSW.P (R35, R156): the writes of ACC and of PSW keep it, and nothing else of a step writes either. -/

namespace Sys2Proof.Machine

/-- A write of ACC makes PSW.P the parity of the new ACC, whatever it was before (R35). -/
theorem parityHolds_setAcc (s : State) (v : Byte) : (s.setAcc v).ParityHolds := by
  intro hmode
  obtain ⟨-, -, hfollows⟩ := accWritten_setAcc s v
  have hbefore : s.params.pMode = .parity := hmode
  rwa [ParityFollows, hbefore] at hfollows

/-- A write of PSW discards bit 0 with `P_MODE = parity` (R156). -/
theorem setPsw_getLsbD_zero {s : State} (hmode : s.params.pMode = .parity) (v : Byte) :
    (s.setPsw v).psw.getLsbD 0 = s.psw.getLsbD 0 := by
  rw [setPsw_psw, State.writtenPsw, hmode]
  exact (putBit_getLsbD _ _ _ _ (by omega)).trans (if_pos rfl)

theorem parityHolds_setPsw {s : State} (h : s.ParityHolds) (v : Byte) : (s.setPsw v).ParityHolds :=
  fun hmode => (setPsw_getLsbD_zero (s := s) hmode v).trans (h hmode)

/-- Of the block-owned cells only ACC and PSW take part in the invariant. -/
theorem parityHolds_setSfr {s : State} (r : Sfr) (v : Byte) (h : s.ParityHolds) : (s.setSfr r v).ParityHolds := by
  cases r
  case acc => exact parityHolds_setAcc s v
  case psw => exact parityHolds_setPsw h v
  all_goals exact h

/-- Every update but those of ACC and PSW leaves ACC, PSW and the parameters, so there the invariant is literally the one before. -/
theorem parityHolds_stepKept : StepKept State.ParityHolds where
  sfr _ r v h := parityHolds_setSfr r v h
  ram _ _ _ _ _ h := h
  jump _ _ h := h
  io _ _ _ h := h
  flash _ _ _ _ h := h
  popService _ h := h
  boundary _ h := h
  begin _ h := h
  tick _ h := h
  clearLatch _ _ h := h
  pushService _ _ _ h := h

/-- Settles O17: the primitive updates of a step keep the parity, so every step does. -/
theorem stepKeepsParity : Obligations.StepKeepsParity :=
  fun _ _ => parityHolds_stepKept.step_next

end Sys2Proof.Machine
end

section
/-! PROOF. What no instruction writes (R54, R71, R282, R311, R341), the in-service stack and the Flash, which one instruction each
writes (R290, R293), and the bound on nesting (R38, R326). -/

namespace Sys2Proof.Machine

/-! ## What no instruction writes -/

/-- Timer 1 without the three registers an instruction can write. -/
def Timer1.counting (t : Timer1) : Timer1 := { t with cnt := 0, lr := 0, hr := 0 }

theorem eq_of_counting_eq {t u : Timer1} (h : t.counting = u.counting) : t = { u with cnt := t.cnt, lr := t.lr, hr := t.hr } :=
  congrArg (fun x => { x with cnt := t.cnt, lr := t.lr, hr := t.hr }) h

/-- t has of s everything that no instruction writes. -/
def Unwritten (s t : State) : Prop :=
  t.latches = s.latches ∧ t.run = s.run ∧ t.extOld = s.extOld ∧ t.extNew = s.extNew ∧ t.rom = s.rom ∧
  t.frequency = s.frequency ∧ t.params = s.params ∧ t.env = s.env ∧ t.t1.counting = s.t1.counting

theorem unwritten_setSfr {s t : State} (r : Sfr) (v : Byte) (h : Unwritten s t) : Unwritten s (t.setSfr r v) := by
  cases r <;> exact h

theorem unwritten_kept (s : State) : Kept (Unwritten s) where
  sfr _ r v h := unwritten_setSfr r v h
  ram _ _ _ _ _ h := h
  jump _ _ h := h
  io _ _ _ h := h
  flash _ _ _ _ h := h
  popService _ h := h

theorem unwritten_refl (s : State) : Unwritten s s := ⟨rfl, rfl, rfl, rfl, rfl, rfl, rfl, rfl, rfl⟩

/-! ## The in-service stack and the Flash -/

section
variable (s : State)

@[simp] theorem setSfr_inService (r : Sfr) (v : Byte) : (s.setSfr r v).inService = s.inService := by cases r <;> rfl

@[simp] theorem setSfr_flash (r : Sfr) (v : Byte) : (s.setSfr r v).flash = s.flash := by cases r <;> rfl

@[simp] theorem afterOperand_inService (o : Operand) : (s.afterOperand o).inService = s.inService := by
  cases o <;> simp [State.afterOperand]

@[simp] theorem afterOperand_flash (o : Operand) : (s.afterOperand o).flash = s.flash := by
  cases o <;> simp [State.afterOperand]

@[simp] theorem branchIf_inService (c : Bool) (n : Nat) (r : Byte) : (s.branchIf c n r).inService = s.inService := by
  rw [branchIf_eq]

@[simp] theorem branchIf_flash (c : Bool) (n : Nat) (r : Byte) : (s.branchIf c n r).flash = s.flash := by
  rw [branchIf_eq]

@[simp] theorem popPswIfSaved_flash : s.popPswIfSaved.flash = s.flash := by
  unfold State.popPswIfSaved
  split <;> rfl

@[simp] theorem leave_flash : s.leave.flash = s.flash := popPswIfSaved_flash s

end

/-- An instruction other than RETI and STF is made of reads and writes of the data space, ACC, PSW, the RAM and pc; with the operations
opened down to these, the lemmas about each of them leave both alone. -/
theorem exec_inService_flash {i : Instr} {s t : State} (hreti : i ≠ .reti) (hstf : i ≠ .stf) (he : exec i s = .next t) :
    t.inService = s.inService ∧ t.flash = s.flash := by
  cases i
  case reti => exact absurd rfl hreti
  case stf => exact absurd rfl hstf
  case ldc =>
    change execLdc s = _ at he
    unfold execLdc at he
    split at he <;> cases he
    exact ⟨rfl, rfl⟩
  case ldf =>
    change execLdf s = _ at he
    unfold execLdf at he
    split at he <;> cases he
    exact ⟨rfl, rfl⟩
  case div =>
    change execDiv s = _ at he
    unfold execDiv at he
    split at he <;> cases he <;> exact ⟨rfl, rfl⟩
  case bpc a n r =>
    cases he
    cases hbit : (s.dataByte a).getLsbD n.toNat <;> simp [State.load, hbit]
  all_goals
    cases he
    simp [State.load, State.loadAcc, State.exchange, State.modify, State.decrementBranch, State.loadOperand, State.addOperand,
      State.subOperand, State.logicOperand, State.putAlu, State.putCyAcOv, State.putCyOv, State.putProduct, State.putFlag,
      State.branchEqual, State.branchNotEqual, State.setStackTop, State.popPc, State.pop]

/-- STF changes the Flash, the draws and pc (R293). -/
theorem execStf_inService {s t : State} (he : exec .stf s = .next t) : t.inService = s.inService := by
  change execStf s = _ at he
  unfold execStf at he
  split at he
  · rename_i u hu
    cases he
    rw [advance_inService, (programFlash_eq hu).2]
  · cases he

theorem exec_inService {i : Instr} {s t : State} (hreti : i ≠ .reti) (he : exec i s = .next t) : t.inService = s.inService := by
  by_cases hstf : i = .stf
  · subst hstf
    exact execStf_inService he
  · exact (exec_inService_flash hreti hstf he).1

theorem exec_flash {i : Instr} {s t : State} (hstf : i ≠ .stf) (he : exec i s = .next t) : t.flash = s.flash := by
  by_cases hreti : i = .reti
  · subst hreti
    cases he
    exact leave_flash s
  · exact (exec_inService_flash hreti hstf he).2

/-- Settles O13: what no instruction writes is kept by every primitive update; the in-service stack and the Flash go by the
instruction. -/
theorem instructionsLeaveTheRestAlone : Obligations.InstructionsLeaveTheRestAlone := by
  intro i s t he
  obtain ⟨hlatches, hrun, hextOld, hextNew, hrom, hfrequency, hparams, henv, ht1⟩ :=
    (unwritten_kept s).exec_next (unwritten_refl s) he
  exact ⟨hlatches, hrun, hextOld, hextNew, hrom, hfrequency, hparams, henv, eq_of_counting_eq ht1,
    fun hreti => exec_inService hreti he, fun hstf => exec_flash hstf he⟩

/-! ## Nesting -/

/-- Settles O19: sources of strictly falling rank are distinct, and the scan order lists all there are. -/
theorem nestingIsBounded : Obligations.NestingIsBounded := by
  intro s hnested
  have hnodup : s.inService.Nodup := hnested.imp fun hrank heq => absurd (congrArg Source.rank heq) hrank.ne'
  exact ⟨hnodup, (hnodup.subperm fun src _ => mem_scanOrder src).length_le⟩

end Sys2Proof.Machine
end

section
/-! PROOF. Reset and construction (R55, R370), and the flags of PSW (R34, R155). -/

namespace Sys2Proof.Machine

/-! ## Construction -/

/-- The byte the host supplies is that of the first cell listed for the address. -/
theorem lookup_eq_find? (m : Memory) (a : Nat) : Memory.lookup m a = (m.find? fun cell => cell.1 == a).map Prod.snd := by
  induction m with
  | nil => rfl
  | cons x m ih =>
    obtain ⟨k, v⟩ := x
    by_cases hk : k = a
    · simp [Memory.lookup, hk]
    · simp [Memory.lookup, hk, ih]

/-- A reset machine with these parameters and memories in the place of its own. -/
def State.resetWith (p : Params) (ram rom flash : Memory) : State :=
  { State.reset with params := p, ram := ram, rom := rom, flash := flash }

/-- Construction with the four references is that machine, its RAM filled up with draws (R370). -/
theorem construct_eq (p : Params) (draw : Nat → Byte) (ram rom flash : Memory) (ic : Latches) (hle : Bool) :
    construct p draw (some ram) (some rom) (some flash) (some ic) hle =
      .ok (State.resetWith p (Memory.supplied ram draw 512) rom flash) := rfl

theorem reset_eq_resetWith :
    State.reset = State.resetWith Params.spec (Memory.supplied [] Config.initialRam 512) [] [] := rfl

/-- Every cell reads 0x00, whatever the machine is built from (R55). -/
theorem sfrByte_resetWith (p : Params) (ram rom flash : Memory) (r : Sfr) :
    (State.resetWith p ram rom flash).sfrByte r = 0x00 := by cases r <;> rfl

/-- Counters and mirrors are 0, nothing is in service and ACC and PSW are 0, so of the invariants only that of the memories asks anything
of what the machine is built from. -/
theorem resetWith_invariants {p : Params} {ram rom flash : Memory} (hram : Memory.wf ram ∧ Memory.within 512 ram)
    (hrom : Memory.wf rom ∧ Memory.within p.romSize rom) (hflash : Memory.wf flash ∧ Memory.within p.flashSize flash) :
    (State.resetWith p ram rom flash).MemoryCanonical ∧ (State.resetWith p ram rom flash).TimerMirrored ∧
    (State.resetWith p ram rom flash).NestedByRank ∧ (State.resetWith p ram rom flash).ParityHolds :=
  ⟨⟨hram, hrom, hflash⟩, ⟨rfl, rfl⟩, List.Pairwise.nil, fun _ => (by decide : (0x00 : Byte).getLsbD 0 = oddOnes 0x00)⟩

/-- Settles O18: reset is a construction with nothing supplied, and a RAM filled up with draws is canonical. -/
theorem resetMeetsInvariants : Obligations.ResetMeetsInvariants := by
  refine ⟨?_, fun p draw ram rom flash ic hle s hrom hflash hs => ?_⟩
  · rw [reset_eq_resetWith]
    exact resetWith_invariants ⟨wf_supplied .., within_supplied _ _ _⟩ ⟨wf_nil, within_nil _⟩ ⟨wf_nil, within_nil _⟩
  · rw [construct_eq] at hs
    cases hs
    exact resetWith_invariants ⟨wf_supplied .., within_supplied _ _ _⟩ hrom hflash

theorem construct_missing {p : Params} {draw : Nat → Byte} {ram rom flash : Option Memory} {ic : Option Latches} {hle : Bool}
    (hmissing : ram = none ∨ rom = none ∨ flash = none ∨ ic = none) :
    construct p draw ram rom flash ic hle = .error .missingReference := by
  unfold construct
  split
  · simp at hmissing
  · rfl

/-- Settles O22: construction is the reset machine with the host's memories, and each RAM byte is read back from how it was filled. -/
theorem constructionResets : Obligations.ConstructionResets := by
  refine ⟨fun p draw ram rom flash ic hle => construct_missing, fun p draw ram rom flash ic hle => ?_, rfl, fun k hk => ?_⟩
  · refine ⟨_, construct_eq .., rfl, rfl, rfl, rfl, sfrByte_resetWith _ _ _ _, rfl, rfl, rfl, fun src => by cases src <;> rfl,
      rfl, rfl, rfl, rfl, fun k hk => ?_, rfl, rfl, rfl⟩
    refine (read_supplied ram draw hk).trans ?_
    rw [lookup_eq_find?]
    cases ram.find? fun cell => cell.1 == k <;> rfl
  · exact read_supplied [] Config.initialRam hk

/-! ## Flags -/

theorem flagPlace_lt (f : Flag) : f.place < 8 := by cases f <;> decide

theorem flagPlace_inj {f g : Flag} (h : f.place = g.place) : f = g := by
  revert h
  cases f <;> cases g <;> decide

/-- Putting a flag that PSW stores changes its bit of PSW alone. -/
theorem putFlag_getLsbD_of_stored {s : State} {f : Flag} (h : s.params.pMode = .stored ∨ f ≠ .p) (x : Bool) (k : Nat) :
    (s.putFlag f x).psw.getLsbD k = if k = f.place then x else s.psw.getLsbD k := by
  rcases h with hmode | hf
  · unfold State.putFlag
    rw [setPsw_psw, State.writtenPsw, hmode]
    exact putBit_getLsbD _ _ _ _ (flagPlace_lt f)
  · exact putFlag_getLsbD s f x hf k

/-- Settles O34: a flag is one bit of PSW at a place of its own. -/
theorem flagsAreIndependent : Obligations.FlagsAreIndependent := by
  intro s f x h
  have hbit := putFlag_getLsbD_of_stored h x
  refine ⟨(hbit f.place).trans (if_pos rfl), fun g hg => ?_, fun k hk => ?_, rfl⟩
  · exact (hbit g.place).trans (if_neg fun hplace => hg (flagPlace_inj hplace))
  · have hplace : k ∉ [f.place] := by cases f <;> exact hk
    exact (hbit k).trans (if_neg (by simpa using hplace))

end Sys2Proof.Machine
end

section
/-! PROOF. The data space address by address (R40, R48, R72-R74, R82): which cell an address names, and what a read and a write of it
do. -/

namespace Sys2Proof.Machine

/-! ## The map of the data space -/

/-- The data address of a block-owned cell (R40). -/
def Sfr.addr : Sfr → DataAddr
  | .acc => 0x100
  | .psw => 0x101
  | .b => 0x102
  | .c => 0x103
  | .trl => 0x104
  | .trh => 0x105
  | .sp => 0x106
  | .pcon => 0x107
  | .ie => 0x108
  | .ip => 0x109
  | .ext => 0x10D
  | .t1cnt => 0x118
  | .t1lc => 0x11A
  | .t1l => 0x11B
  | .t1hc => 0x11C
  | .t1h => 0x11D
  | .fpr => 0x154

/-- The block-owned cells, in the order of their addresses. -/
def Sfr.all : List Sfr :=
  [.acc, .psw, .b, .c, .trl, .trh, .sp, .pcon, .ie, .ip, .ext, .t1cnt, .t1lc, .t1l, .t1hc, .t1h, .fpr]

theorem ownedAddrs_eq : ownedAddrs = Sfr.all.map Sfr.addr := rfl

theorem addr_mem_ownedAddrs (r : Sfr) : r.addr ∈ ownedAddrs := by cases r <;> decide

theorem exists_addr_of_mem_ownedAddrs {a : DataAddr} (h : a ∈ ownedAddrs) : ∃ r : Sfr, a = r.addr := by
  rw [ownedAddrs_eq] at h
  obtain ⟨r, -, hr⟩ := List.mem_map.mp h
  exact ⟨r, hr.symm⟩

theorem ofAddr_addr (r : Sfr) : Sfr.ofAddr r.addr = some r := by cases r <;> rfl

theorem eq_addr_of_ofAddr {a : DataAddr} {r : Sfr} (h : Sfr.ofAddr a = some r) : a = r.addr := by
  unfold Sfr.ofAddr at h
  split at h <;> cases h
  all_goals exact BitVec.eq_of_toNat_eq ‹_›

theorem getLsbD_eight (a : DataAddr) : a.getLsbD 8 = decide (0x100 ≤ a.toNat) := by
  rw [← BitVec.msb_eq_getLsbD_last, BitVec.msb_eq_decide]

theorem dataCell_addr (r : Sfr) : dataCell r.addr = .sfr r := by cases r <;> rfl

/-- Below 0x100 an address names the RAM byte of its low eight bits (R73). -/
theorem dataCell_of_lt {a : DataAddr} (h : a.toNat < 0x100) : dataCell a = .ram (a.setWidth 8) := by
  unfold dataCell
  rw [getLsbD_eight, decide_eq_false (by omega), if_neg Bool.false_ne_true, BitVec.setWidth_eq_extractLsb' (by omega)]

/-- From 0x100 on, an address the block does not own names a device (R74). -/
theorem dataCell_of_device {a : DataAddr} (h : DeviceAddr a) : dataCell a = .device := by
  obtain ⟨hge, hnot⟩ := h
  unfold dataCell
  rw [getLsbD_eight, decide_eq_true hge, if_pos rfl]
  cases hr : Sfr.ofAddr a with
  | none => rfl
  | some r => exact absurd (eq_addr_of_ofAddr hr ▸ addr_mem_ownedAddrs r) hnot

theorem dataCell_ne_device {a : DataAddr} (h : a.toNat < 0x100 ∨ a ∈ ownedAddrs) : dataCell a ≠ .device := by
  rcases h with hlt | howned
  · simp [dataCell_of_lt hlt]
  · obtain ⟨r, rfl⟩ := exists_addr_of_mem_ownedAddrs howned
    simp [dataCell_addr]

/-- An address is the RAM's, the block's or a device's. -/
theorem deviceAddr_of_not {a : DataAddr} (h : ¬(a.toNat < 0x100 ∨ a ∈ ownedAddrs)) : DeviceAddr a := by
  rwa [not_or, not_lt] at h

theorem dataCell_eq_device_iff (a : DataAddr) : dataCell a = .device ↔ DeviceAddr a :=
  ⟨fun h => deviceAddr_of_not fun hnot => dataCell_ne_device hnot h, dataCell_of_device⟩

/-! ## Reads -/

/-- RAM is read through the bank PSW.RAMBK0 selects (R73). -/
theorem dataByte_of_lt (s : State) {a : DataAddr} (h : a.toNat < 0x100) :
    s.dataByte a = s.ramByte s.ramBank (a.setWidth 8) := by
  rw [State.dataByte, dataCell_of_lt h]

theorem dataByte_addr (s : State) (r : Sfr) : s.dataByte r.addr = s.sfrByte r := by
  rw [State.dataByte, dataCell_addr]

theorem dataByte_of_device (s : State) {a : DataAddr} (h : DeviceAddr a) : s.dataByte a = Config.freeByte s.draws := by
  rw [State.dataByte, dataCell_of_device h]

theorem afterRead_of_device (s : State) {a : DataAddr} (h : DeviceAddr a) :
    s.afterRead a = { s with draws := s.draws + 1, events := s.events ++ [.deviceRead a] } := by
  rw [State.afterRead, dataCell_of_device h]

/-- An address of the RAM or of the block is read without a trace (R82). -/
theorem afterRead_of_owned (s : State) {a : DataAddr} (h : a.toNat < 0x100 ∨ a ∈ ownedAddrs) : s.afterRead a = s :=
  afterRead_of_not_device s a (dataCell_ne_device h)

/-- Settles O31: the map gives each address its cell, and the read goes by the cell. -/
theorem dataSpaceReads : Obligations.DataSpaceReads := by
  intro s
  have hcell := dataByte_addr s
  refine ⟨fun a => dataByte_of_lt s, hcell .acc, hcell .psw, hcell .b, hcell .c, hcell .trl, hcell .trh, hcell .sp, hcell .pcon,
    hcell .ie, hcell .ip, hcell .ext, hcell .t1cnt, hcell .t1lc, hcell .t1l, hcell .t1hc, hcell .t1h, hcell .fpr, fun a => ?_⟩
  split
  case isTrue h => exact afterRead_of_owned s h
  case isFalse h =>
    have hdevice := deviceAddr_of_not h
    exact ⟨dataByte_of_device s hdevice, afterRead_of_device s hdevice⟩

/-! ## Writes -/

theorem store_of_lt (s : State) {a : DataAddr} (h : a.toNat < 0x100) (v : Byte) :
    s.store a v = s.setRam s.ramBank (a.setWidth 8) v := by
  rw [State.store, dataCell_of_lt h]

theorem store_addr (s : State) (r : Sfr) (v : Byte) : s.store r.addr v = s.setSfr r v := by
  rw [State.store, dataCell_addr]

theorem store_of_device (s : State) {a : DataAddr} (h : DeviceAddr a) (v : Byte) :
    s.store a v = { s with events := s.events ++ [.deviceWrite a v] } := by
  rw [State.store, dataCell_of_device h]

theorem setPsw_of_stored {s : State} (hmode : s.params.pMode = .stored) (v : Byte) : s.setPsw v = { s with psw := v } := by
  rw [State.setPsw, State.writtenPsw, hmode]

/-- With `P_MODE = parity` a write of PSW writes every bit but P (R156). -/
theorem setPsw_getLsbD_of_parity {s : State} (hmode : s.params.pMode = .parity) (v : Byte) {k : Nat} (hk : 1 ≤ k) :
    (s.setPsw v).psw.getLsbD k = v.getLsbD k := by
  rw [setPsw_psw, State.writtenPsw, hmode]
  exact (putBit_getLsbD _ _ _ _ (by omega)).trans (if_neg (by omega))

/-- Settles O32: the map gives each address its cell, and the write goes by the cell. -/
theorem dataSpaceWrites : Obligations.DataSpaceWrites := by
  intro s v
  have hcell := fun r => store_addr s r v
  refine ⟨fun a ha => ?_, ?_, fun hmode => ?_, fun hmode => ?_, hcell .b, hcell .c, hcell .trl, hcell .trh, hcell .sp, hcell .pcon,
    hcell .ie, hcell .ip, hcell .ext, hcell .t1cnt, hcell .t1lc, hcell .t1l, hcell .t1hc, hcell .t1h, hcell .fpr,
    fun a hge hnot => store_of_device s ⟨hge, hnot⟩ v⟩
  · rw [store_of_lt s ha]
    exact ramWritten_setRam s s.ramBank (a.setWidth 8) v
  · have hacc : s.store 0x100 v = s.setAcc v := hcell .acc
    rw [hacc]
    exact accWritten_setAcc s v
  · exact (hcell .psw).trans (setPsw_of_stored hmode v)
  · have hpsw : s.store 0x101 v = s.setPsw v := hcell .psw
    rw [hpsw]
    exact ⟨rfl, setPsw_getLsbD_zero hmode v, fun k => setPsw_getLsbD_of_parity hmode v⟩

/-! ## The timer's raw read -/

theorem rawByte_of_lt (s : State) {a : DataAddr} (h : a.toNat < 0x100) : s.rawByte a = s.ramByte s.ramBank (a.setWidth 8) := by
  rw [State.rawByte, dataCell_of_lt h]

theorem rawByte_t1l (s : State) : s.rawByte 0x11B = s.t1.lr := rfl

theorem rawByte_t1h (s : State) : s.rawByte 0x11D = s.t1.hr := rfl

/-- Off the split addresses a raw read of a cell is the semantic one (R80). -/
theorem rawByte_of_owned (s : State) {a : DataAddr} (h : a ∈ ownedAddrs) (hl : a ≠ 0x11B) (hh : a ≠ 0x11D) :
    s.rawByte a = s.dataByte a := by
  obtain ⟨r, rfl⟩ := exists_addr_of_mem_ownedAddrs h
  cases r
  case t1l => exact absurd rfl hl
  case t1h => exact absurd rfl hh
  all_goals rfl

theorem rawByte_of_device (s : State) {a : DataAddr} (h : DeviceAddr a) : s.rawByte a = Config.freeByte s.draws := by
  rw [State.rawByte, dataCell_of_device h]

end Sys2Proof.Machine
end

section
/-! PROOF. One tick of Timer 1 (R340, R343, R344, R346). The counts of the two halves decide what a tick does; each part of its work is
said once by these. -/

namespace Sys2Proof.Machine

/-! ## The counts of the two halves -/

/-- The low half has counted past its end (R340, step 5). -/
abbrev Timer1.lowOver (t : Timer1) : Prop := 255 < t.lowCount

/-- The high count with the carry a cascade gets from the low half (R340, step 5). -/
def Timer1.highSum (t : Timer1) : Nat := if t.long = true ∧ t.lowOver then t.highCount + 1 else t.highCount

/-- The high half has counted past its end (R340, step 5). -/
abbrev Timer1.highOver (t : Timer1) : Prop := 255 < t.highSum

theorem lowCount_eq (t : Timer1) : t.lowCount =
    if t.cnt.getLsbD 6 = true ∧ t.loStarted = true then
      t.lo + (if t.cnt.getLsbD 5 = true ∧ t.cnt.getLsbD 7 = false then 2 else 1)
    else t.lr.toNat := by
  unfold Timer1.lowCount Timer1.lowEnabled Timer1.highEnabled Timer1.long
  cases t.cnt.getLsbD 6 <;> cases t.loStarted <;> simp

theorem highCount_eq (t : Timer1) : t.highCount =
    if t.cnt.getLsbD 7 = false then t.hr.toNat else if t.cnt.getLsbD 5 = true then t.hi else t.hi + 1 := by
  unfold Timer1.highCount Timer1.highEnabled Timer1.long
  cases t.cnt.getLsbD 7 <;> simp

/-! ## The work of a tick -/

theorem highSum_of_short {t : Timer1} (h : t.long = false) : t.highSum = t.highCount := if_neg (by simp [h])

theorem highSum_of_carry {t : Timer1} (h : t.long = true) (hlow : t.lowOver) : t.highSum = t.highCount + 1 := if_pos ⟨h, hlow⟩

theorem highSum_of_no_carry {t : Timer1} (hlow : ¬t.lowOver) : t.highSum = t.highCount := if_neg fun h => hlow h.2

/-- The low half starts again from its reload: in 8-bit mode when it overflows, in cascade mode when the high half does. -/
abbrev Timer1.lowReloads (t : Timer1) : Prop := t.lowOver ∧ t.long = false ∨ t.highOver ∧ t.long = true

/-- A half that overflows with its interrupt bit set raises the latch; a cascade is the high half's alone (R346). -/
abbrev Timer1.raises (t : Timer1) : Prop :=
  t.lowOver ∧ t.long = false ∧ t.cnt.getLsbD 0 = true ∨ t.highOver ∧ t.cnt.getLsbD 2 = true

theorem lowReloads_of_short {t : Timer1} (h : t.long = false) : t.lowReloads ↔ t.lowOver := by simp [Timer1.lowReloads, h]

theorem lowReloads_of_long {t : Timer1} (h : t.long = true) : t.lowReloads ↔ t.highOver := by simp [Timer1.lowReloads, h]

/-- T1CNT with the status bit of the low half (R340, R346). -/
def Timer1.lowStatus (t : Timer1) : Byte := if t.lowReloads then putBit t.cnt 1 true else t.cnt

/-- T1CNT with the status bits of both halves (R340, R346). -/
def Timer1.status (t : Timer1) : Byte := if t.highOver then putBit t.lowStatus 3 true else t.lowStatus

theorem lowStatus_getLsbD (t : Timer1) (k : Nat) :
    t.lowStatus.getLsbD k = if k = 1 ∧ t.lowReloads then true else t.cnt.getLsbD k := by
  unfold Timer1.lowStatus
  by_cases h : t.lowReloads
  · rw [if_pos h, putBit_getLsbD _ _ _ _ (by omega)]
    exact if_congr (and_iff_left h).symm rfl rfl
  · rw [if_neg h, if_neg fun hk => h hk.2]

theorem status_getLsbD (t : Timer1) (k : Nat) :
    t.status.getLsbD k = if k = 3 ∧ t.highOver then true else t.lowStatus.getLsbD k := by
  unfold Timer1.status
  by_cases h : t.highOver
  · rw [if_pos h, putBit_getLsbD _ _ _ _ (by omega)]
    exact if_congr (and_iff_left h).symm rfl rfl
  · rw [if_neg h, if_neg fun hk => h hk.2]

/-- The first condition of step 5, which is the low half's in 8-bit mode. -/
theorem lowOverflow_counted {t : Timer1} (hshort : t.long = false) :
    t.lowOverflow t.counted =
      { ctl := t.lowStatus
        lo := if t.lowOver then t.lr.toNat else t.lowCount
        hi := t.highSum
        raise := decide t.lowOver && t.cnt.getLsbD 0
        readsCascade := false } := by
  have hreload := lowReloads_of_short hshort
  rw [highSum_of_short hshort]
  by_cases hlow : t.lowOver
  · rw [Timer1.lowOverflow, if_pos ⟨hlow, hshort⟩]
    simp [Timer1.counted, Timer1.lowStatus, hreload, hlow]
  · rw [Timer1.lowOverflow, if_neg fun h => hlow h.1]
    simp [Timer1.counted, Timer1.lowStatus, hreload, hlow]

/-- The second condition of step 5, which is the low half's in cascade mode, where the carry goes into the high half. -/
theorem lowCascade_counted {t : Timer1} (hlong : t.long = true) (cascade : Byte) :
    t.lowCascade cascade t.counted =
      { ctl := t.cnt
        lo := if t.lowOver then cascade.toNat else t.lowCount
        hi := t.highSum
        raise := false
        readsCascade := decide t.lowOver } := by
  by_cases hlow : t.lowOver
  · rw [Timer1.lowCascade, if_pos ⟨hlow, hlong⟩, highSum_of_carry hlong hlow]
    simp [Timer1.counted, hlow]
  · rw [Timer1.lowCascade, if_neg fun h => hlow h.1, highSum_of_no_carry hlow]
    simp [Timer1.counted, hlow]

/-- What a tick's work is after step 5 of R340, in both modes. -/
def Timer1.outcome (t : Timer1) (cascade : Byte) : TickWork where
  ctl := t.status
  lo := if t.lowReloads then t.lr.toNat else if t.lowOver then cascade.toNat else t.lowCount
  hi := if t.highOver then t.hr.toNat else t.highSum
  raise := decide t.raises
  readsCascade := decide (t.long = true ∧ t.lowOver)

theorem resolved_of_short {t : Timer1} (hshort : t.long = false) (cascade : Byte) : t.resolved cascade = t.outcome cascade := by
  have hwork : t.resolved cascade = t.highOverflow (t.lowOverflow t.counted) := by
    simp [Timer1.resolved, Timer1.lowCascade, Timer1.highCascade, hshort]
  have hbit : t.lowStatus.getLsbD 2 = t.cnt.getLsbD 2 := (lowStatus_getLsbD t 2).trans (if_neg (by simp))
  have hreload := lowReloads_of_short hshort
  rw [hwork, lowOverflow_counted hshort, Timer1.outcome, Timer1.status]
  by_cases hhigh : t.highOver
  · rw [Timer1.highOverflow, if_pos ⟨hhigh, hshort⟩]
    simp only [hbit]
    by_cases hlow : t.lowOver <;> simp [hreload, hlow, hhigh, hshort]
  · rw [Timer1.highOverflow, if_neg fun h => hhigh h.1]
    by_cases hlow : t.lowOver <;> simp [hreload, hlow, hhigh, hshort]

theorem resolved_of_long {t : Timer1} (hlong : t.long = true) (cascade : Byte) : t.resolved cascade = t.outcome cascade := by
  have hwork : t.resolved cascade = t.highCascade (t.lowCascade cascade t.counted) := by
    simp [Timer1.resolved, Timer1.lowOverflow, Timer1.highOverflow, hlong]
  have hreload := lowReloads_of_long hlong
  rw [hwork, lowCascade_counted hlong, Timer1.outcome, Timer1.status, Timer1.lowStatus]
  by_cases hhigh : t.highOver
  · rw [Timer1.highCascade, if_pos ⟨hhigh, hlong⟩]
    simp [hreload, hhigh, hlong]
  · rw [Timer1.highCascade, if_neg fun h => hhigh h.1]
    simp [hreload, hhigh, hlong]

theorem resolved_eq (t : Timer1) (cascade : Byte) : t.resolved cascade = t.outcome cascade := by
  cases hlong : t.long with
  | false => exact resolved_of_short hlong cascade
  | true => exact resolved_of_long hlong cascade

/-! ## The tick -/

section
variable (s : State)

theorem tick_t1_eq : s.tick.t1 = s.t1.written (s.t1.outcome (s.rawByte s.params.cascadeLowReload)) :=
  congrArg s.t1.written (resolved_eq ..)

theorem tick_t1_lo : s.tick.t1.lo =
    if s.t1.lowReloads then s.t1.lr.toNat
    else if s.t1.lowOver then (s.rawByte s.params.cascadeLowReload).toNat else s.t1.lowCount := by
  rw [tick_t1_eq]
  rfl

theorem tick_t1_hi : s.tick.t1.hi = if s.t1.highOver then s.t1.hr.toNat else s.t1.highSum := by
  rw [tick_t1_eq]
  rfl

theorem tick_t1_cnt : s.tick.t1.cnt = s.t1.status := by
  rw [tick_t1_eq]
  rfl

theorem tick_t1_cnt_one : s.tick.t1.cnt.getLsbD 1 = true ↔ s.t1.cnt.getLsbD 1 = true ∨ s.t1.lowReloads := by
  rw [tick_t1_cnt, status_getLsbD, if_neg (by simp), lowStatus_getLsbD]
  by_cases h : s.t1.lowReloads <;> simp [h]

theorem tick_t1_cnt_three : s.tick.t1.cnt.getLsbD 3 = true ↔ s.t1.cnt.getLsbD 3 = true ∨ s.t1.highOver := by
  have hlow : s.t1.lowStatus.getLsbD 3 = s.t1.cnt.getLsbD 3 := (lowStatus_getLsbD _ 3).trans (if_neg (by simp))
  rw [tick_t1_cnt, status_getLsbD, hlow]
  by_cases h : s.t1.highOver <;> simp [h]

/-- A tick writes no bit of T1CNT but the two status bits. -/
theorem tick_t1_cnt_of_ne {k : Nat} (h1 : k ≠ 1) (h3 : k ≠ 3) : s.tick.t1.cnt.getLsbD k = s.t1.cnt.getLsbD k := by
  rw [tick_t1_cnt, status_getLsbD, lowStatus_getLsbD, if_neg fun h => h3 h.1, if_neg fun h => h1 h.1]

theorem tick_latches : s.tick.latches = if s.t1.raises then s.latches.set .t1 else s.latches := by
  have hraise : (s.t1.resolved (s.rawByte s.params.cascadeLowReload)).raise ↔ s.t1.raises := by
    rw [resolved_eq]
    exact decide_eq_true_iff
  exact if_congr hraise rfl rfl

theorem tick_getLatch_t1 : s.tick.getLatch .t1 = true ↔ s.getLatch .t1 = true ∨ s.t1.raises := by
  unfold State.getLatch
  rw [tick_latches]
  split
  case isTrue h => simp [h, Latches.set, latches_get_put]
  case isFalse h => simp [h]

theorem tick_getLatch_of_ne {src : Source} (hsrc : src ≠ .t1) : s.tick.getLatch src = s.getLatch src := by
  unfold State.getLatch
  rw [tick_latches]
  split
  · rw [Latches.set, latches_get_put, if_neg hsrc]
  · rfl

/-- The notifications of a tick: the period on a first enabled tick, and the enable on every tick (R343). -/
theorem tick_events : s.tick.events =
    s.events ++ (if s.t1.cnt.getLsbD 6 = true ∧ s.t1.loStarted = false then [.setPeriod s.t1.lr] else [])
      ++ [.setEnabled (s.t1.cnt.getLsbD 6 && !s.t1.cnt.getLsbD 5)] := by
  have hfirst : s.t1.firstEnabled = true ↔ s.t1.cnt.getLsbD 6 = true ∧ s.t1.loStarted = false := by
    simp only [Timer1.firstEnabled, Timer1.lowEnabled, Bool.and_eq_true, Bool.not_eq_true']
  rw [List.append_assoc, ← if_congr hfirst rfl rfl]
  rfl

/-- Only a low overflow in cascade mode reads the reload, and only a device's byte is a draw (R344). -/
theorem tick_draws : s.tick.draws =
    s.draws + if DeviceAddr s.params.cascadeLowReload ∧ s.t1.long = true ∧ s.t1.lowOver then 1 else 0 := by
  have hdevice : s.cascadeIsDevice = true ↔ DeviceAddr s.params.cascadeLowReload :=
    beq_iff_eq.trans (dataCell_eq_device_iff _)
  have hdraw : (s.t1.resolved (s.rawByte s.params.cascadeLowReload)).readsCascade && s.cascadeIsDevice ↔
      DeviceAddr s.params.cascadeLowReload ∧ s.t1.long = true ∧ s.t1.lowOver := by
    rw [resolved_eq, Bool.and_eq_true, and_comm]
    exact and_congr hdevice decide_eq_true_iff
  refine (if_congr hdraw rfl rfl).trans ?_
  split <;> rfl

end

/-- Settles O30: the statement's counts are those of the two halves, and each part of the tick is said by them. -/
theorem tickCountsAndOverflows : Obligations.TickCountsAndOverflows := by
  intro s lowEn highEn long lo1 hi1 lowOver hi2 highOver
  have hlo1 : lo1 = s.t1.lowCount := (lowCount_eq s.t1).symm
  have hhi1 : hi1 = s.t1.highCount := (highCount_eq s.t1).symm
  clear_value lo1 hi1
  subst hlo1 hhi1
  exact ⟨tick_t1_lo s, tick_t1_hi s, rfl, rfl, rfl, rfl, tick_t1_cnt_one s, tick_t1_cnt_three s, fun k => tick_t1_cnt_of_ne s,
    tick_getLatch_t1 s, fun src => tick_getLatch_of_ne s, tick_events s, rfl, rfl, tick_draws s, rfl,
    fun a => rawByte_of_lt s, rawByte_t1l s, rawByte_t1h s, fun a => rawByte_of_owned s, fun a => rawByte_of_device s⟩

end Sys2Proof.Machine
end

section
/-! PROOF. The memory regions (R70, R71, R75, R79): a canonical memory is determined by what it reads, every step keeps the regions
canonical, and regions of the sizes of R6 leave nothing to fault on (R304). -/

namespace Sys2Proof.Machine

/-! ## The canonical form -/

/-- An address below every listed one is not listed. -/
theorem read_eq_blank_of_lt {m : Memory} {a : Nat} (h : ∀ x ∈ m, a < x.1) : Memory.read m a = blank := by
  induction m with
  | nil => rfl
  | cons x m ih =>
    obtain ⟨k, v⟩ := x
    obtain ⟨hk, hm⟩ := List.forall_mem_cons.mp h
    rw [Memory.read, if_neg (Nat.ne_of_gt hk)]
    exact ih hm

theorem wf_cons_iff {k : Nat} {v : Byte} {m : Memory} :
    Memory.wf ((k, v) :: m) ↔ v ≠ blank ∧ (∀ x ∈ m, k < x.1) ∧ Memory.wf m := by
  rw [Memory.wf, List.pairwise_cons, List.forall_mem_cons]
  exact ⟨fun ⟨⟨hk, hp⟩, hv, hb⟩ => ⟨hv, hk, hp, hb⟩, fun ⟨hv, hk, hp, hb⟩ => ⟨⟨hk, hp⟩, hv, hb⟩⟩

/-- A canonical memory reads other than blank at its first listed address, and blank below it, so a memory that reads like it lists
nothing below. -/
theorem head_le_of_read_eq {k k' : Nat} {v v' : Byte} {m m' : Memory} (hm : Memory.wf ((k, v) :: m))
    (hm' : Memory.wf ((k', v') :: m')) (h : ∀ a, Memory.read ((k, v) :: m) a = Memory.read ((k', v') :: m') a) : k' ≤ k := by
  obtain ⟨hv, -, -⟩ := wf_cons_iff.mp hm
  obtain ⟨-, habove, -⟩ := wf_cons_iff.mp hm'
  by_contra hlt
  have hlt : k < k' := Nat.lt_of_not_le hlt
  refine hv ?_
  calc v = Memory.read ((k, v) :: m) k := by simp [Memory.read]
    _ = Memory.read ((k', v') :: m') k := h k
    _ = blank := read_eq_blank_of_lt (List.forall_mem_cons.mpr ⟨hlt, fun x hx => hlt.trans (habove x hx)⟩)

/-- The first entry of a canonical memory is taken off without a change above it, and blank is left in its place. -/
theorem read_tail {k : Nat} {v : Byte} {m : Memory} (hm : Memory.wf ((k, v) :: m)) (a : Nat) :
    Memory.read m a = if a = k then blank else Memory.read ((k, v) :: m) a := by
  obtain ⟨-, habove, -⟩ := wf_cons_iff.mp hm
  split
  · next heq => exact read_eq_blank_of_lt (heq ▸ habove)
  · next hne => rw [Memory.read, if_neg (Ne.symm hne)]

/-- Settles O20: the least address that does not read blank, and its byte, are the first entry of both memories; the rest is the
induction on the tails. -/
theorem canonicalMemoriesAgree : Obligations.CanonicalMemoriesAgree := by
  intro m
  induction m with
  | nil =>
    rintro (_ | ⟨⟨k, v⟩, m'⟩) - hm' h
    · rfl
    · have hblank : v = blank := by simpa [Memory.read] using (h k).symm
      exact absurd hblank (wf_cons_iff.mp hm').1
  | cons x m ih =>
    obtain ⟨k, v⟩ := x
    rintro (_ | ⟨⟨k', v'⟩, m'⟩) hm hm' h
    · have hblank : v = blank := by simpa [Memory.read] using h k
      exact absurd hblank (wf_cons_iff.mp hm).1
    · obtain rfl : k = k' := Nat.le_antisymm (head_le_of_read_eq hm' hm fun a => (h a).symm) (head_le_of_read_eq hm hm' h)
      obtain rfl : v = v' := by simpa [Memory.read] using h k
      obtain ⟨-, -, htail⟩ := wf_cons_iff.mp hm
      obtain ⟨-, -, htail'⟩ := wf_cons_iff.mp hm'
      rw [ih m' htail htail' fun a => by rw [read_tail hm, read_tail hm', h a]]

/-! ## Every step keeps the regions canonical -/

/-- The block-owned cells are no memory, and no instruction writes the parameters. -/
theorem memoryCanonical_setSfr {s : State} (r : Sfr) (v : Byte) (h : s.MemoryCanonical) : (s.setSfr r v).MemoryCanonical := by
  cases r <;> exact h

/-- The two banks of RAM are its 512 bytes (R73). -/
theorem ramKey_lt {bank : Nat} (h : bank ≤ 1) (a : Byte) : ramKey bank a < 512 := by
  have ha := a.isLt
  unfold ramKey
  omega

theorem memoryCanonical_setRam {s : State} {bank : Nat} (a v : Byte) (hbank : bank ≤ 1) (h : s.MemoryCanonical) :
    (s.setRam bank a v).MemoryCanonical := by
  obtain ⟨⟨hwf, hwithin⟩, hrom, hflash⟩ := h
  exact ⟨⟨wf_write hwf _ _, within_write hwithin (ramKey_lt hbank a) v⟩, hrom, hflash⟩

theorem memoryCanonical_writeFlash {s : State} {a : Nat} (v : Byte) (ha : a < s.params.flashSize) (h : s.MemoryCanonical) :
    State.MemoryCanonical { s with flash := Memory.write s.flash a v } := by
  obtain ⟨hram, hrom, hwf, hwithin⟩ := h
  exact ⟨hram, hrom, wf_write hwf _ _, within_write hwithin ha v⟩

/-- A step writes memory by bytes of the two RAM banks and by bytes the Flash has. -/
theorem memoryCanonical_stepKept : StepKept State.MemoryCanonical where
  sfr _ r v h := memoryCanonical_setSfr r v h
  ram _ _ a v hbank h := memoryCanonical_setRam a v hbank h
  jump _ _ h := h
  io _ _ _ h := h
  flash _ _ v ha h := memoryCanonical_writeFlash v ha h
  popService _ h := h
  boundary _ h := h
  begin _ h := h
  tick _ h := h
  clearLatch _ _ h := h
  pushService _ _ _ h := h

/-- Settles O14: a write of a byte inside a region keeps it canonical, and no other update of a step writes memory. -/
theorem stepKeepsMemoryCanonical : Obligations.StepKeepsMemoryCanonical :=
  fun _ _ => memoryCanonical_stepKept.step_next

/-! ## The Flash -/

/-- What STF does: it programs the byte at the flash address and goes on, or faults where the Flash has no such address (R79, R293). -/
theorem exec_stf_eq (s : State) :
    exec .stf s =
      if s.flashAddr.toNat < s.params.flashSize then
        .next { s with
          flash := Memory.write s.flash s.flashAddr.toNat (s.programmedByte s.acc)
          draws := s.draws + s.programDraws
          pc := s.pc + 1 }
      else .fault (.outOfRange .flash s.flashAddr.toNat) := by
  change execStf s = _
  unfold execStf State.programFlash State.setFlash
  by_cases h : s.flashAddr.toNat < s.params.flashSize
  · rw [if_pos h, if_pos (show s.flashAddr.toNat < (s.draw s.programDraws).params.flashSize from h)]
    rfl
  · rw [if_neg h, if_neg (show ¬ s.flashAddr.toNat < (s.draw s.programDraws).params.flashSize from h)]

/-- An STF that goes on had an address the Flash has, and its state is that of `exec_stf_eq`. -/
theorem exec_stf_next {s t : State} (h : exec .stf s = .next t) :
    s.flashAddr.toNat < s.params.flashSize ∧ t.params = s.params ∧
    t.flash = Memory.write s.flash s.flashAddr.toNat (s.programmedByte s.acc) := by
  rw [exec_stf_eq] at h
  split at h
  · next hlt =>
    cases h
    exact ⟨hlt, rfl, rfl⟩
  · cases h

/-- Below 0x10000 the flash address is TRH:TRL, the code address of the same byte in the Flash bank (R87). -/
theorem flashAddr_eq_tableRef {s : State} (h : s.fpr.getLsbD 0 = false) : s.flashAddr.toNat = s.tableRef.toNat := by
  have hbit : s.fpr.toNat % 2 = 0 := by
    rw [BitVec.getLsbD, Nat.testBit_zero] at h
    simpa using h
  rw [flashAddr_toNat, State.tableRef, toNat_append_byte, hbit]
  omega

/-- What a model of a Flash write the spec does not describe stores (log 10). -/
theorem programmedByte_unspecified {s : State} (h : s.params.flashWriteModel = .unspecified) (v : Byte) :
    s.programmedByte v = Config.freeByte s.draws ∧ s.programDraws = 1 := by
  simp [State.programmedByte, State.programDraws, h]

/-- An STF below 0x10000 is seen by the fetches of its own address and by no other (R87). -/
theorem codeByte_exec_stf {s t : State} (hlow : s.fpr.getLsbD 0 = false) (h : exec .stf s = .next t) (a : CodeAddr) :
    t.codeByte .flash a = if a = s.tableRef then some (s.programmedByte s.acc) else s.codeByte .flash a := by
  obtain ⟨hlt, hparams, hflash⟩ := exec_stf_next h
  rw [flashAddr_eq_tableRef hlow] at hlt hflash
  unfold State.codeByte
  simp only [hparams, hflash, read_write, ← BitVec.toNat_inj]
  by_cases ha : a.toNat = s.tableRef.toNat
  · rw [if_pos ha, if_pos (ha ▸ hlt), if_pos ha.symm]
  · rw [if_neg ha, if_neg (Ne.symm ha)]

/-- Settles O59: the flash address below 0x10000 is the code address, and a read after the write gives the written byte there alone. -/
theorem flashStoreIsFetched : Obligations.FlashStoreIsFetched := by
  refine ⟨fun s t hlow ht => ⟨?_, fun a ha => ?_⟩, fun s fa hfa hmodel hlt => ?_⟩
  · exact (codeByte_exec_stf hlow ht _).trans (if_pos rfl)
  · exact (codeByte_exec_stf hlow ht a).trans (if_neg ha)
  · rw [← flashAddr_toNat] at hfa
    subst hfa
    obtain ⟨hbyte, hdraws⟩ := programmedByte_unspecified hmodel s.acc
    rw [exec_stf_eq, if_pos hlt, hbyte, hdraws]
    refine ⟨_, rfl, fun k => ?_, rfl⟩
    simp only [read_write, eq_comm]

/-! ## Safe runs -/

/-- The parameters are fixed when the block is built (R6). -/
theorem params_stepKept (p : Params) : StepKept fun s => s.params = p where
  sfr _ r _ h := by cases r <;> exact h
  ram _ _ _ _ _ h := h
  jump _ _ h := h
  io _ _ _ h := h
  flash _ _ _ _ h := h
  popService _ h := h
  boundary _ h := h
  begin _ h := h
  tick _ h := h
  clearLatch _ _ h := h
  pushService _ _ _ h := h

theorem step_params {s t : State} (h : step s = .next t) : t.params = s.params :=
  (params_stepKept s.params).step_next rfl h

/-- The regions have the sizes of R6, and the machine refuses no opcode. -/
structure State.FullRegions (s : State) : Prop where
  rom : 0x10000 ≤ s.params.romSize
  flash : 0x20000 ≤ s.params.flashSize
  implemented : s.params.unimplemented = []

theorem fullRegions_congr {s t : State} (hparams : t.params = s.params) (h : s.FullRegions) : t.FullRegions := by
  constructor <;> rw [hparams]
  exacts [h.rom, h.flash, h.implemented]

/-- Every code address is in the region of its bank (R71, R79). -/
theorem State.FullRegions.codeByte {s : State} (h : s.FullRegions) (bank : Bank) (a : CodeAddr) :
    s.codeByte bank a = some (s.regionByte bank a.toNat) := by
  refine codeByte_of_lt (a.isLt.trans_le ?_)
  cases bank
  · exact h.rom
  · exact le_trans (by decide) h.flash

/-- Every flash address is in the Flash (R75, R79). -/
theorem State.FullRegions.flashAddr_lt {s : State} (h : s.FullRegions) : s.flashAddr.toNat < s.params.flashSize :=
  s.flashAddr.isLt.trans_le h.flash

/-- Every opcode byte has a row (R114, R115). -/
theorem decodeRow_isSome : ∀ op : Byte, (decodeRow op).isSome = true := by decide +kernel

theorem State.FullRegions.fetchByte {s : State} (h : s.FullRegions) (k : Nat) : ∃ v, s.fetchByte k = .next v := by
  unfold State.fetchByte
  rw [h.codeByte]
  exact ⟨_, rfl⟩

theorem State.FullRegions.fetchOperand {s : State} (h : s.FullRegions) (length k : Nat) : ∃ v, s.fetchOperand length k = .next v := by
  unfold State.fetchOperand
  split
  · exact h.fetchByte k
  · exact ⟨0, rfl⟩

/-- None of the four fetch faults of R301 is left, and the table has every opcode. -/
theorem State.FullRegions.fetch {s : State} (h : s.FullRegions) : ∃ f, s.fetch = .next f := by
  obtain ⟨op, hop⟩ := h.fetchByte 0
  obtain ⟨row, hrow⟩ := Option.isSome_iff_exists.mp (decodeRow_isSome op)
  obtain ⟨b1, hb1⟩ := h.fetchOperand row.length 1
  obtain ⟨b2, hb2⟩ := h.fetchOperand row.length 2
  exact ⟨⟨op, row.build op b1 b2⟩, by
    simp [State.fetch, State.fetchOperands, hop, hrow, hb1, hb2, h.implemented]⟩

/-- LDC, LDF and STF find their byte; no other instruction can fail. -/
theorem State.FullRegions.exec {s : State} (h : s.FullRegions) (i : Instr) : ∃ t, exec i s = .next t := by
  cases i
  case ldc =>
    change ∃ t, execLdc s = .next t
    unfold execLdc
    rw [h.codeByte]
    exact ⟨_, rfl⟩
  case ldf =>
    change ∃ t, execLdf s = .next t
    unfold execLdf State.flashByte
    rw [if_pos h.flashAddr_lt]
    exact ⟨_, rfl⟩
  case stf =>
    rw [exec_stf_eq, if_pos h.flashAddr_lt]
    exact ⟨_, rfl⟩
  case div =>
    change ∃ t, execDiv s = .next t
    unfold execDiv
    split <;> exact ⟨_, rfl⟩
  all_goals exact ⟨_, rfl⟩

theorem State.FullRegions.step {s : State} (h : s.FullRegions) : ∃ t, step s = .next t := by
  cases hhalted : s.halted with
  | true => exact ⟨_, step_of_halted hhalted⟩
  | false =>
    have hbegun : s.boundary.begin.FullRegions := fullRegions_congr (s := s) rfl h
    obtain ⟨f, hf⟩ := hbegun.fetch
    obtain ⟨t, ht⟩ := hbegun.exec f.instr
    refine ⟨t.finish (s.boundary.params.cycles f.op), ?_⟩
    rw [step_of_running hhalted]
    simp [State.runTurn, State.processInstruction, hf, ht]

theorem run_succ_of_next (M : Host.Core) {s u : M.State} (h : M.step s = .next u) (n : Nat) : M.run (n + 1) s = M.run n u := by
  rw [Host.Core.run, h]

/-- Settles O21: with full regions every step answers a next state, and its parameters are those before it. -/
theorem noRunFaultsWithFullRegions : Obligations.NoRunFaultsWithFullRegions := by
  intro s hrom hflash himplemented n
  have hfull : s.FullRegions := ⟨hrom, hflash, himplemented⟩
  clear hrom hflash himplemented
  induction n generalizing s with
  | zero => exact ⟨s, rfl⟩
  | succ n ih =>
    obtain ⟨u, hu⟩ := hfull.step
    obtain ⟨t, ht⟩ := ih u (fullRegions_congr (step_params hu) hfull)
    exact ⟨t, (run_succ_of_next core hu n).trans ht⟩

end Sys2Proof.Machine
end

section
/-! PROOF. The decoder and the encoder (R100-R102, R104-R108, R110, R112-R115): an opcode byte has one row of the table, which its bits
under the row's mask decide, and each operand field is read back from where it is written. -/

namespace Sys2Proof

/-! ## The opcode table -/

/-- The patterns of the rows are disjoint and cover every byte (R114). -/
theorem length_filter_opcodeRows :
    ∀ op : Byte, (opcodeRows.filter fun row => op &&& row.mask == row.pattern).length = 1 := by decide +kernel

theorem decodeRow_eq_some_iff {op : Byte} {row : OpcodeRow} :
    decodeRow op = some row ↔ row ∈ opcodeRows ∧ op &&& row.mask = row.pattern := by
  obtain ⟨only, honly⟩ := List.length_eq_one_iff.mp (length_filter_opcodeRows op)
  have hmem : row ∈ opcodeRows.filter (fun row => op &&& row.mask == row.pattern) ↔
      row ∈ opcodeRows ∧ op &&& row.mask = row.pattern := by rw [List.mem_filter, beq_iff_eq]
  rw [← hmem, decodeRow, ← List.head?_filter, honly, List.head?_cons, Option.some_inj, List.mem_singleton, eq_comm]

/-- A decoded instruction is built from its opcode's row and the bytes the row asks for. -/
theorem decode_cons_eq_ok_iff {op : Byte} {tail rest : List Byte} {i : Instr} :
    decode (op :: tail) = .ok (i, rest) ↔ ∃ row, decodeRow op = some row ∧ row.length ≤ tail.length + 1 ∧
      i = row.build op (tail.getD 0 0) (tail.getD 1 0) ∧ rest = tail.drop (row.length - 1) := by
  rw [decode]
  cases decodeRow op with
  | none => simp
  | some row =>
    by_cases hlen : tail.length + 1 < row.length
    · simp [hlen]
    · simp [hlen, Nat.le_of_not_lt hlen, eq_comm]

/-! ## Operand fields: what the encoder writes of what the decoder read -/

section
variable {op base : Byte}

theorem or_rjBits_rj (h : op &&& 0xFC = base) : base ||| rjBits (rj op) = op := by
  subst h
  revert op
  decide +kernel

theorem or_d8Bit_d9 (h : op &&& 0xFE = base) (b1 : Byte) : base ||| d8Bit (d9 op b1) = op := by
  rw [d8Bit, d9, BitVec.extractLsb'_append_eq_left]
  subst h
  revert op
  decide +kernel

/-- The free bits of the mask 0xE8 are the two fields of formats A12, B and BR (R113). -/
theorem or_bit4_bits0 (h : op &&& 0xE8 = base) :
    base ||| ((op.extractLsb' 4 1).setWidth 8 <<< 4 ||| (op.extractLsb' 0 3).setWidth 8) = op := by
  subst h
  revert op
  decide +kernel

theorem or_bitBits_d9b (h : op &&& 0xE8 = base) (b1 : Byte) : base ||| bitBits (d9b op b1) (b3 op) = op := by
  rw [bitBits, d8Bit, d9b, BitVec.extractLsb'_append_eq_left]
  exact or_bit4_bits0 h

theorem or_a12Bits_a12 (h : op &&& 0xE8 = base) (b1 : Byte) : base ||| a12Bits (a12 op b1) = op := by
  have ha11 : (a12 op b1).extractLsb' 11 1 = op.extractLsb' 4 1 :=
    (BitVec.extractLsb'_append_eq_of_le (by decide)).trans BitVec.extractLsb'_append_eq_left
  have ha8 : (a12 op b1).extractLsb' 8 3 = op.extractLsb' 0 3 :=
    (BitVec.extractLsb'_append_eq_of_le (by decide)).trans BitVec.extractLsb'_append_eq_right
  rw [a12Bits, ha11, ha8]
  exact or_bit4_bits0 h

end

theorem d9Low_d9 (op b1 : Byte) : d9Low (d9 op b1) = b1 := BitVec.extractLsb'_append_eq_right

theorem d9Low_d9b (op b1 : Byte) : d9Low (d9b op b1) = b1 := BitVec.extractLsb'_append_eq_right

theorem a12Low_a12 (op b1 : Byte) : a12Low (a12 op b1) = b1 := BitVec.extractLsb'_append_eq_right

theorem high16_a16 (b1 b2 : Byte) : high16 (a16 b1 b2) = b1 := BitVec.extractLsb'_append_eq_left

theorem low16_a16 (b1 b2 : Byte) : low16 (a16 b1 b2) = b2 := BitVec.extractLsb'_append_eq_right

theorem high16_r16 (b1 b2 : Byte) : high16 (r16 b1 b2) = b2 := BitVec.extractLsb'_append_eq_left

theorem low16_r16 (b1 b2 : Byte) : low16 (r16 b1 b2) = b1 := BitVec.extractLsb'_append_eq_right

/-! ## Operand fields: what the decoder reads of what the encoder wrote

In each lemma the pattern leaves the bits of the field 0, so the opcode byte keeps both. -/

section
variable {base : Byte}

theorem rj_or_rjBits (h : base &&& 0xFC = base) (j : BitVec 2) :
    (base ||| rjBits j) &&& 0xFC = base ∧ rj (base ||| rjBits j) = j := by
  revert base j
  decide +kernel

theorem bit0_or (x : BitVec 1) (h : base &&& 0xFE = base) :
    (base ||| x.setWidth 8) &&& 0xFE = base ∧ (base ||| x.setWidth 8).extractLsb' 0 1 = x := by
  revert base x
  decide +kernel

theorem bit4_bits0_or (x : BitVec 1) (n : BitVec 3) (h : base &&& 0xE8 = base) :
    (base ||| (x.setWidth 8 <<< 4 ||| n.setWidth 8)) &&& 0xE8 = base ∧
    (base ||| (x.setWidth 8 <<< 4 ||| n.setWidth 8)).extractLsb' 4 1 = x ∧
    (base ||| (x.setWidth 8 <<< 4 ||| n.setWidth 8)).extractLsb' 0 3 = n := by
  revert base x n
  decide +kernel

theorem d9_or_d8Bit (h : base &&& 0xFE = base) (a : DataAddr) :
    (base ||| d8Bit a) &&& 0xFE = base ∧ d9 (base ||| d8Bit a) (d9Low a) = a := by
  obtain ⟨hbase, hd8⟩ := bit0_or (a.extractLsb' 8 1) h
  refine ⟨hbase, ?_⟩
  rw [d9, d8Bit, hd8]
  exact BitVec.extractLsb'_append_extractLsb'

theorem d9b_or_bitBits (h : base &&& 0xE8 = base) (a : DataAddr) (n : BitVec 3) :
    (base ||| bitBits a n) &&& 0xE8 = base ∧ d9b (base ||| bitBits a n) (d9Low a) = a ∧ b3 (base ||| bitBits a n) = n := by
  obtain ⟨hbase, hd8, hn⟩ := bit4_bits0_or (a.extractLsb' 8 1) n h
  refine ⟨hbase, ?_, hn⟩
  rw [d9b, bitBits, d8Bit, hd8]
  exact BitVec.extractLsb'_append_extractLsb'

theorem a12_or_a12Bits (h : base &&& 0xE8 = base) (a : BitVec 12) :
    (base ||| a12Bits a) &&& 0xE8 = base ∧ a12 (base ||| a12Bits a) (a12Low a) = a := by
  obtain ⟨hbase, ha11, ha8⟩ := bit4_bits0_or (a.extractLsb' 11 1) (a.extractLsb' 8 3) h
  refine ⟨hbase, ?_⟩
  have hhigh : a.extractLsb' 11 1 ++ a.extractLsb' 8 3 = a.extractLsb' 8 4 :=
    BitVec.extractLsb'_append_extractLsb'_eq_extractLsb' rfl
  rw [a12, a12Bits, ha11, ha8, hhigh]
  exact BitVec.extractLsb'_append_extractLsb'

end

theorem a16_high16_low16 (a : CodeAddr) : a16 (high16 a) (low16 a) = a := BitVec.extractLsb'_append_extractLsb'

theorem r16_low16_high16 (r : BitVec 16) : r16 (low16 r) (high16 r) = r := BitVec.extractLsb'_append_extractLsb'

/-! ## Decoding what was encoded -/

section
variable {base op mask : Byte} {n : Nat} {build : Byte → Byte → Byte → Instr} {tail rest : List Byte} {i : Instr}

/-- The opcode byte finds its row by the bits under the row's mask alone, and the bytes after the instruction are left (R100). -/
theorem decode_of_and_mask (hrow : decodeRow base = some ⟨mask, base, n, build⟩) (hop : op &&& mask = base)
    (hlen : n ≤ tail.length + 1) (hbuild : build op (tail.getD 0 0) (tail.getD 1 0) = i) (hrest : tail.drop (n - 1) = rest) :
    decode (op :: tail) = .ok (i, rest) := by
  obtain ⟨hmem, -⟩ := decodeRow_eq_some_iff.mp hrow
  exact decode_cons_eq_ok_iff.mpr ⟨_, decodeRow_eq_some_iff.mpr ⟨hmem, hop⟩, hlen, hbuild.symm, hrest.symm⟩

/-- Formats Z, I, R8, IR, A16 and R16. -/
theorem decode_pattern (hrow : decodeRow base = some ⟨0xFF, base, n, build⟩) (hlen : n ≤ tail.length + 1)
    (hbuild : build base (tail.getD 0 0) (tail.getD 1 0) = i) (hrest : tail.drop (n - 1) = rest) :
    decode (base :: tail) = .ok (i, rest) := by
  obtain ⟨-, hbase⟩ := decodeRow_eq_some_iff.mp hrow
  exact decode_of_and_mask hrow hbase hlen hbuild hrest

/-- Formats J, JI, JR and JIR. -/
theorem decode_or_rjBits {j : BitVec 2} (hrow : decodeRow base = some ⟨0xFC, base, n, build⟩) (hlen : n ≤ tail.length + 1)
    (hbuild : ∀ op, rj op = j → build op (tail.getD 0 0) (tail.getD 1 0) = i) (hrest : tail.drop (n - 1) = rest) :
    decode ((base ||| rjBits j) :: tail) = .ok (i, rest) := by
  obtain ⟨-, hbase⟩ := decodeRow_eq_some_iff.mp hrow
  obtain ⟨hop, hj⟩ := rj_or_rjBits hbase j
  exact decode_of_and_mask hrow hop hlen (hbuild _ hj) hrest

/-- Formats D, DI and DR. -/
theorem decode_or_d8Bit {a : DataAddr} (hrow : decodeRow base = some ⟨0xFE, base, n, build⟩) (hlen : n ≤ tail.length + 1)
    (hbuild : ∀ op, d9 op (d9Low a) = a → build op (tail.getD 0 0) (tail.getD 1 0) = i) (hrest : tail.drop (n - 1) = rest) :
    decode ((base ||| d8Bit a) :: tail) = .ok (i, rest) := by
  obtain ⟨-, hbase⟩ := decodeRow_eq_some_iff.mp hrow
  obtain ⟨hop, ha⟩ := d9_or_d8Bit hbase a
  exact decode_of_and_mask hrow hop hlen (hbuild _ ha) hrest

/-- Formats B and BR. -/
theorem decode_or_bitBits {a : DataAddr} {k : BitVec 3} (hrow : decodeRow base = some ⟨0xE8, base, n, build⟩)
    (hlen : n ≤ tail.length + 1)
    (hbuild : ∀ op, d9b op (d9Low a) = a → b3 op = k → build op (tail.getD 0 0) (tail.getD 1 0) = i)
    (hrest : tail.drop (n - 1) = rest) : decode ((base ||| bitBits a k) :: tail) = .ok (i, rest) := by
  obtain ⟨-, hbase⟩ := decodeRow_eq_some_iff.mp hrow
  obtain ⟨hop, ha, hk⟩ := d9b_or_bitBits hbase a k
  exact decode_of_and_mask hrow hop hlen (hbuild _ ha hk) hrest

/-- Format A12. -/
theorem decode_or_a12Bits {a : BitVec 12} (hrow : decodeRow base = some ⟨0xE8, base, n, build⟩) (hlen : n ≤ tail.length + 1)
    (hbuild : ∀ op, a12 op (a12Low a) = a → build op (tail.getD 0 0) (tail.getD 1 0) = i) (hrest : tail.drop (n - 1) = rest) :
    decode ((base ||| a12Bits a) :: tail) = .ok (i, rest) := by
  obtain ⟨-, hbase⟩ := decodeRow_eq_some_iff.mp hrow
  obtain ⟨hop, ha⟩ := a12_or_a12Bits hbase a
  exact decode_of_and_mask hrow hop hlen (hbuild _ ha) hrest

end

/-- Settles O1: the instructions go by the fields of their opcode byte (R102). -/
theorem decodeInvertsEncode : Obligations.DecodeInvertsEncode := by
  intro i rest
  cases i
  case ldc | mul | div | rol | rolc | ror | rorc | ret | reti | nop | ldf | stf
      | addImm v | addcImm v | subImm v | subcImm v | andImm v | orImm v | xorImm v
      | br r | bz r | bnz r | beImm v r | bneImm v r =>
    exact decode_pattern (by rfl) (by simp) (by rfl) rfl
  case jmpf a | callf a =>
    exact decode_pattern (by rfl) (by simp) (congrArg _ (a16_high16_low16 a)) rfl
  case brf r | callr r =>
    exact decode_pattern (by rfl) (by simp) (congrArg _ (r16_low16_high16 r)) rfl
  case ldInd j | stInd j | xchInd j | addInd j | addcInd j | subInd j | subcInd j | incInd j | decInd j | andInd j | orInd j
      | xorInd j | movInd v j | dbnzInd j r | beInd j v r | bneInd j v r =>
    exact decode_or_rjBits (by rfl) (by simp) (by rintro op rfl; rfl) rfl
  case ldD9 a | stD9 a | push a | pop a | xchD9 a | addD9 a | addcD9 a | subD9 a | subcD9 a | incD9 a | decD9 a | andD9 a | orD9 a
      | xorD9 a | movD9 v a | dbnzD9 a r | beD9 a r | bneD9 a r =>
    exact decode_or_d8Bit (by rfl) (by simp) (fun op ha => by simp [ha]) rfl
  case set1 a k | clr1 a k | not1 a k | bp a k r | bpc a k r | bn a k r =>
    exact decode_or_bitBits (by rfl) (by simp) (fun op ha hk => by simp [ha, hk]) rfl
  case jmp a | call a =>
    exact decode_or_a12Bits (by rfl) (by simp) (fun op ha => by simp [ha]) rfl

/-! ## Encoding what was decoded

One lemma for each place of the operand fields. Its hypothesis says what the encoder writes of the fields the row reads, which is the
encoder's own equation. -/

/-- What a row builds is encoded by the bytes it is built from: the opcode byte and as many operand bytes as the row has. -/
def OpcodeRow.Faithful (row : OpcodeRow) : Prop :=
  ∀ op b1 b2, op &&& row.mask = row.pattern → encode (row.build op b1 b2) = op :: [b1, b2].take (row.length - 1)

section
variable {base : Byte} {n : Nat} {build : Byte → Byte → Byte → Instr}

/-- Formats Z, I, R8 and IR. -/
theorem OpcodeRow.Faithful.pattern
    (henc : ∀ op b1 b2, encode (build op b1 b2) = base :: [b1, b2].take (n - 1) := by exact fun _ _ _ => rfl) :
    OpcodeRow.Faithful ⟨0xFF, base, n, build⟩ := by
  intro op b1 b2 h
  have hop : op = base := BitVec.and_allOnes.symm.trans h
  rw [henc, hop]

/-- Format A16. -/
theorem OpcodeRow.Faithful.a16
    (henc : ∀ op b1 b2, encode (build op b1 b2) = base :: [high16 (a16 b1 b2), low16 (a16 b1 b2)].take (n - 1) := by
      exact fun _ _ _ => rfl) :
    OpcodeRow.Faithful ⟨0xFF, base, n, build⟩ :=
  .pattern fun op b1 b2 => by rw [henc, high16_a16, low16_a16]

/-- Format R16. -/
theorem OpcodeRow.Faithful.r16
    (henc : ∀ op b1 b2, encode (build op b1 b2) = base :: [low16 (r16 b1 b2), high16 (r16 b1 b2)].take (n - 1) := by
      exact fun _ _ _ => rfl) :
    OpcodeRow.Faithful ⟨0xFF, base, n, build⟩ :=
  .pattern fun op b1 b2 => by rw [henc, high16_r16, low16_r16]

/-- Formats J, JI, JR and JIR. -/
theorem OpcodeRow.Faithful.rj
    (henc : ∀ op b1 b2, encode (build op b1 b2) = (base ||| rjBits (rj op)) :: [b1, b2].take (n - 1) := by exact fun _ _ _ => rfl) :
    OpcodeRow.Faithful ⟨0xFC, base, n, build⟩ := by
  intro op b1 b2 h
  rw [henc, or_rjBits_rj h]

/-- Formats D, DI and DR. -/
theorem OpcodeRow.Faithful.d9
    (henc : ∀ op b1 b2, encode (build op b1 b2) = (base ||| d8Bit (d9 op b1)) :: [d9Low (d9 op b1), b2].take (n - 1) := by
      exact fun _ _ _ => rfl) :
    OpcodeRow.Faithful ⟨0xFE, base, n, build⟩ := by
  intro op b1 b2 h
  rw [henc, or_d8Bit_d9 h, d9Low_d9]

/-- Formats B and BR. -/
theorem OpcodeRow.Faithful.d9b
    (henc : ∀ op b1 b2, encode (build op b1 b2) =
      (base ||| bitBits (d9b op b1) (b3 op)) :: [d9Low (d9b op b1), b2].take (n - 1) := by exact fun _ _ _ => rfl) :
    OpcodeRow.Faithful ⟨0xE8, base, n, build⟩ := by
  intro op b1 b2 h
  rw [henc, or_bitBits_d9b h, d9Low_d9b]

/-- Format A12. -/
theorem OpcodeRow.Faithful.a12
    (henc : ∀ op b1 b2, encode (build op b1 b2) = (base ||| a12Bits (a12 op b1)) :: [a12Low (a12 op b1), b2].take (n - 1) := by
      exact fun _ _ _ => rfl) :
    OpcodeRow.Faithful ⟨0xE8, base, n, build⟩ := by
  intro op b1 b2 h
  rw [henc, or_a12Bits_a12 h, a12Low_a12]

end

/-- The rows in the order of the table, one family below another. -/
theorem faithful_of_mem_opcodeRows : ∀ row ∈ opcodeRows, row.Faithful := by
  simp only [opcodeRows, dataTransferRows, arithmeticRows, logicalRows, bitRows, controlRows, systemRows, List.cons_append,
    List.nil_append, List.forall_mem_cons, List.not_mem_nil, false_implies, implies_true, and_true]
  exact ⟨.d9, .rj, .d9, .rj, .d9, .rj, .pattern, .d9, .d9, .d9, .rj,
    .pattern, .d9, .rj, .pattern, .d9, .rj, .pattern, .d9, .rj, .pattern, .d9, .rj, .pattern, .pattern, .d9, .rj, .d9, .rj,
    .pattern, .d9, .rj, .pattern, .d9, .rj, .pattern, .d9, .rj, .pattern, .pattern, .pattern, .pattern,
    .d9b, .d9b, .d9b,
    .a12, .a16, .pattern, .r16, .pattern, .pattern, .d9b, .d9b, .d9b, .d9, .rj, .pattern, .d9, .rj, .pattern, .d9, .rj, .a12,
    .a16, .r16, .pattern,
    .pattern, .pattern, .pattern, .pattern⟩

theorem length_of_mem_opcodeRows : ∀ row ∈ opcodeRows, 1 ≤ row.length ∧ row.length ≤ 3 := by decide

/-- The operand bytes the decoder reads are the head of what follows the opcode byte. -/
theorem take_getD_eq_take {tail : List Byte} {k : Nat} (hk : k ≤ 2) (hlen : k ≤ tail.length) :
    [tail.getD 0 0, tail.getD 1 0].take k = tail.take k := by
  match k, tail, hk, hlen with
  | 0, _, _, _ => rfl
  | 1, _ :: _, _, _ => rfl
  | 2, _ :: _ :: _, _, _ => rfl

/-- Settles O2: the row that decodes the bytes builds an instruction that is encoded by them. -/
theorem encodeInvertsDecode : Obligations.EncodeInvertsDecode := by
  rintro (_ | ⟨op, tail⟩) rest i h
  · cases h
  · obtain ⟨row, hrow, hlen, rfl, rfl⟩ := decode_cons_eq_ok_iff.mp h
    obtain ⟨hmem, hop⟩ := decodeRow_eq_some_iff.mp hrow
    obtain ⟨-, hle⟩ := length_of_mem_opcodeRows row hmem
    rw [faithful_of_mem_opcodeRows row hmem _ _ _ hop, take_getD_eq_take (by omega) (by omega), List.cons_append,
      List.take_append_drop]

/-! ## Lengths -/

theorem filter_hasLength : ∀ op : Byte, ([1, 2, 3].filter fun n => hasLength op n) = [specLength op] := by decide +kernel

/-- The lengths of the table are those of R101. -/
theorem decodeRow_length : ∀ op : Byte, (decodeRow op).map OpcodeRow.length = some (specLength op) := by decide +kernel

theorem exists_decodeRow (op : Byte) : ∃ row, decodeRow op = some row ∧ row.length = specLength op :=
  Option.map_eq_some_iff.mp (decodeRow_length op)

/-- Settles O3: the table has one row for each byte, with the length of R101, and the row builds what it decodes. -/
theorem opcodeFixesLength : Obligations.OpcodeFixesLength := by
  intro op b1 b2 rest
  obtain ⟨row, hrow, hlength⟩ := exists_decodeRow op
  obtain ⟨hmem, hop⟩ := decodeRow_eq_some_iff.mp hrow
  obtain ⟨hge, hle⟩ := length_of_mem_opcodeRows row hmem
  rw [← hlength]
  refine ⟨length_filter_opcodeRows op, hlength ▸ filter_hasLength op, row.build op b1 b2, ?_, ?_⟩
  · exact decode_cons_eq_ok_iff.mpr ⟨row, hrow, by simp only [List.length_cons]; omega, rfl, rfl⟩
  · rw [faithful_of_mem_opcodeRows row hmem _ _ _ hop, List.length_cons, List.length_take, List.length_cons, List.length_singleton]
    omega

end Sys2Proof
end

section
/-! PROOF. Where the operands lead: the pointer of @Rj (R44, R106) and the targets of the assembler (R107, R109, R110, R118). -/

namespace Sys2Proof.Machine

/-! ## The pointer of @Rj (R106) -/

theorem pointerCell_eq (s : State) (j : BitVec 2) :
    s.pointerCell j = BitVec.ofNat 8 (4 * (s.psw.toNat / 8 % 4) + j.toNat) := by
  rw [State.pointerCell, BitVec.extractLsb'_toNat, Nat.shiftRight_eq_div_pow]

/-- The indirect registers stand below 0x100, so their data addresses are read through the RAM bank (R44, R73). -/
theorem dataByte_pointerCell (s : State) (j : BitVec 2) :
    s.dataByte (BitVec.ofNat 9 (4 * (s.psw.toNat / 8 % 4) + j.toNat)) = s.ramByte s.ramBank (s.pointerCell j) := by
  have hlt : 4 * (s.psw.toNat / 8 % 4) + j.toNat < 16 := by omega
  have haddr : (BitVec.ofNat 9 (4 * (s.psw.toNat / 8 % 4) + j.toNat)).toNat < 0x100 := by
    rw [BitVec.toNat_ofNat]
    omega
  rw [dataByte_of_lt s haddr, pointerCell_eq, BitVec.setWidth_ofNat_of_le (by decide)]

/-- The pointer as a number: j[1] is worth 0x100. -/
theorem indirect_toNat (s : State) (j : BitVec 2) :
    (s.indirect j).toNat = 256 * (j.toNat / 2) + (s.ramByte s.ramBank (s.pointerCell j)).toNat := by
  have hj := j.isLt
  rw [State.indirect, BitVec.toNat_append, ← Nat.shiftLeft_add_eq_or_of_lt (BitVec.isLt _), Nat.shiftLeft_eq,
    BitVec.extractLsb'_toNat, Nat.shiftRight_eq_div_pow]
  omega

/-- Settles O33: a byte above which j[1] stands is below 0x100 exactly when j[1] is 0. -/
theorem indirectPointer : Obligations.IndirectPointer := by
  intro s j
  have hj : ∀ j : BitVec 2, j = 0 ∨ j = 1 ↔ j.toNat < 2 := by decide
  have hbyte := (s.ramByte s.ramBank (s.pointerCell j)).isLt
  rw [dataByte_pointerCell, indirect_toNat, hj]
  omega

/-! ## Targets (R118) -/

theorem a12For_eq_some_iff {pc t : CodeAddr} {a : BitVec 12} :
    a12For pc t = some a ↔ t.extractLsb' 12 4 = (pc + 2).extractLsb' 12 4 ∧ t.extractLsb' 0 12 = a := by
  rw [a12For, Option.ite_none_right_eq_some, Option.some_inj]

/-- Two addresses are in one 4096-byte block when their top four bits agree. -/
theorem extractLsb'_top_eq_iff (x y : CodeAddr) : x.extractLsb' 12 4 = y.extractLsb' 12 4 ↔ x.toNat / 4096 = y.toNat / 4096 := by
  have hx := x.isLt
  have hy := y.isLt
  rw [← BitVec.toNat_inj, BitVec.extractLsb'_toNat, BitVec.extractLsb'_toNat, Nat.shiftRight_eq_div_pow, Nat.shiftRight_eq_div_pow]
  omega

theorem isSome_a12For (pc t : CodeAddr) : (a12For pc t).isSome ↔ t.toNat / 4096 = (pc + 2).toNat / 4096 := by
  rw [← extractLsb'_top_eq_iff, a12For, Option.isSome_ite]

/-- A target in the block of the next instruction is its top four bits above the operand (R107). -/
theorem blockTarget_a12For {s : State} {t : CodeAddr} {a : BitVec 12} (h : a12For s.pc t = some a) : s.blockTarget 2 a = t := by
  obtain ⟨htop, rfl⟩ := a12For_eq_some_iff.mp h
  have hnext : (s.next 2).extractLsb' 12 4 = t.extractLsb' 12 4 := htop.symm
  rw [State.blockTarget, hnext]
  exact BitVec.extractLsb'_append_extractLsb'

theorem encodes_iff {i : Instr} {bytes : List Byte} : Encodes i bytes ↔ encode i = bytes :=
  ⟨And.left, fun h => ⟨h, fun rest => h ▸ decodeInvertsEncode i rest⟩⟩

/-- R102 writes a11 and a10..a8 by shifts and a mask, the encoder by fields. -/
theorem or_a12Bits_eq_opA12 (base : Byte) (a : BitVec 12) : base ||| a12Bits a = opA12 base a := by
  have ha11 : (a.extractLsb' 11 1).setWidth 8 = (a >>> 11).setWidth 8 := by
    apply BitVec.eq_of_toNat_eq
    simp only [BitVec.toNat_setWidth, BitVec.extractLsb'_toNat, BitVec.toNat_ushiftRight]
    omega
  have ha8 : (a.extractLsb' 8 3).setWidth 8 = (a >>> 8).setWidth 8 &&& 7 := by
    apply BitVec.eq_of_toNat_eq
    simp only [BitVec.toNat_and, BitVec.toNat_setWidth, BitVec.extractLsb'_toNat, BitVec.toNat_ushiftRight]
    rw [show BitVec.toNat (7 : Byte) = 2 ^ 3 - 1 from rfl, Nat.and_two_pow_sub_one_eq_mod]
    omega
  rw [a12Bits, opA12, BitVec.or_assoc, ha11, ha8]

theorem a12Low_eq (a : BitVec 12) : a12Low a = a.setWidth 8 := (BitVec.setWidth_eq_extractLsb' (by decide)).symm

/-- The operand bytes of an a12 target are those of R118. -/
theorem a12For_bytes {pc t : CodeAddr} {a : BitVec 12} (h : a12For pc t = some a) (base : Byte) :
    [base ||| a12Bits a, a12Low a] = [opA12 base (t.setWidth 12), t.setWidth 8] := by
  obtain ⟨-, rfl⟩ := a12For_eq_some_iff.mp h
  rw [← BitVec.setWidth_eq_extractLsb' (by decide), or_a12Bits_eq_opA12, a12Low_eq, BitVec.setWidth_setWidth_of_le _ (by decide)]

theorem relTarget16_r16For (s : State) (t : CodeAddr) : s.relTarget16 3 (r16For s.pc t) = t := by
  have hnext : s.next 3 = s.pc + 3 := rfl
  rw [State.relTarget16, r16For, hnext]
  ring

theorem next_jump_eq {s : State} {u t : CodeAddr} (h : u = t) : (.next (s.jump u) : Result) = .next { s with pc := t } := by
  rw [h]
  rfl

/-- The offset modulo 2^16, as the signed number that goes from next to the target (R8). -/
theorem toInt_offset (pc t : CodeAddr) (n : Nat) :
    ((pc.toNat : Int) + n + (t - (pc + BitVec.ofNat 16 n)).toInt - t.toNat) % 65536 = 0 := by
  have hpc := pc.isLt
  have ht := t.isLt
  rw [BitVec.toInt_eq_toNat_cond, BitVec.toNat_sub, BitVec.toNat_add, BitVec.toNat_ofNat]
  split <;> omega

theorem isSome_r8For (n : Nat) (pc t : CodeAddr) :
    (r8For n pc t).isSome ↔ ∃ d : Int, -128 ≤ d ∧ d ≤ 127 ∧ ((pc.toNat : Int) + n + d - t.toNat) % 65536 = 0 := by
  have hoff := toInt_offset pc t n
  have hlt := BitVec.toInt_lt (x := t - (pc + BitVec.ofNat 16 n))
  have hge := BitVec.le_toInt (x := t - (pc + BitVec.ofNat 16 n))
  rw [r8For, Option.isSome_ite]
  constructor
  · rintro ⟨hlow, hhigh⟩
    exact ⟨_, hlow, hhigh, hoff⟩
  · rintro ⟨d, hlow, hhigh, hd⟩
    omega

/-- A 16-bit offset in the range of a signed byte is its low byte, sign-extended. -/
theorem signExtend_extractLsb'_of_short {x : BitVec 16} (hlow : -128 ≤ x.toInt) (hhigh : x.toInt ≤ 127) :
    (x.extractLsb' 0 8).signExtend 16 = x := by
  apply BitVec.eq_of_toInt_eq
  have hx := x.isLt
  rw [BitVec.toInt_signExtend_of_le (by decide), ← BitVec.setWidth_eq_extractLsb' (by decide), BitVec.toInt_setWidth, Int.bmod_def]
  rw [BitVec.toInt_eq_toNat_cond] at hlow hhigh ⊢
  omega

theorem relTarget_r8For {s : State} {t : CodeAddr} {n : Nat} {r : Byte} (h : r8For n s.pc t = some r) : s.relTarget n r = t := by
  rw [r8For, Option.ite_none_right_eq_some, Option.some_inj] at h
  obtain ⟨⟨hlow, hhigh⟩, rfl⟩ := h
  rw [State.relTarget, signExtend_extractLsb'_of_short hlow hhigh]
  exact add_sub_cancel (s.next n) t

/-- Settles O5: each operand is the one its target formula takes back to the target. -/
theorem assembledTargetsAreReached : Obligations.AssembledTargetsAreReached := by
  refine fun s t => ⟨isSome_a12For s.pc t, fun a ha => ?_, fun n => isSome_r8For n s.pc t, fun n r hr => ?_, fun r hr => ?_, ?_, _, rfl,
    relTarget16_r16For s t⟩
  · exact ⟨encodes_iff.mpr (a12For_bytes ha 0x28), encodes_iff.mpr (a12For_bytes ha 0x08),
      next_jump_eq (blockTarget_a12For ha), _, rfl, blockTarget_a12For ha⟩
  · rw [← relTarget_eq, relTarget_r8For hr]
  · exact next_jump_eq (relTarget_r8For hr)
  · exact next_jump_eq (relTarget16_r16For s t)

end Sys2Proof.Machine
end

section
/-! PROOF. No refusal: the table covers every opcode byte (R114, R115), and an instruction goes on or faults (R300). -/

namespace Sys2Proof.Machine

theorem exec_ne_refused (i : Instr) (s : State) (r : Refusal) : exec i s ≠ .refused r := by
  cases i
  case ldc | ldf | stf | div =>
    simp only [exec, execLdc, execLdf, execStf, execDiv]
    split <;> nofun
  all_goals nofun

theorem fetchByte_ne_refused (s : State) (k : Nat) (r : Refusal) : s.fetchByte k ≠ .refused r := by
  unfold State.fetchByte
  split <;> nofun

theorem fetchOperand_ne_refused (s : State) (length k : Nat) (r : Refusal) : s.fetchOperand length k ≠ .refused r := by
  unfold State.fetchOperand
  split
  · exact fetchByte_ne_refused s k r
  · nofun

theorem fetchOperands_ne_refused (s : State) (op : Byte) (row : OpcodeRow) (r : Refusal) :
    s.fetchOperands op row ≠ .refused r := by
  unfold State.fetchOperands
  split
  · split
    · nofun
    · nofun
    · next h => exact absurd h (fetchOperand_ne_refused _ _ _ _)
  · nofun
  · next h => exact absurd h (fetchOperand_ne_refused _ _ _ _)

/-- Every opcode has a row (R114), so the one refusal the fetch names is not answered. -/
theorem fetch_ne_refused (s : State) (r : Refusal) : s.fetch ≠ .refused r := by
  unfold State.fetch
  split
  · next op _ =>
    obtain ⟨row, hrow, -⟩ := exists_decodeRow op
    rw [hrow]
    split
    · nofun
    · exact fetchOperands_ne_refused s op row r
  · nofun
  · next h => exact absurd h (fetchByte_ne_refused _ _ _)

theorem processInstruction_ne_refused (s t : State) (debug : Bool) (r : Refusal) :
    s.processInstruction debug ≠ (.refused r, t) := by
  unfold State.processInstruction
  split
  · split
    · nofun
    · nofun
    · next h => exact absurd h (exec_ne_refused _ _ _)
  · nofun
  · next h => exact absurd h (fetch_ne_refused _ _)

theorem step_ne_refused (s : State) (r : Refusal) : step s ≠ .refused r := by
  cases hhalted : s.halted with
  | true =>
    rw [step_of_halted hhalted]
    nofun
  | false =>
    rw [step_of_running hhalted, State.runTurn]
    split
    · nofun
    · nofun
    · next h => exact absurd h (processInstruction_ne_refused _ _ _ _)

/-- Settles O9: no instruction answers a refusal, and the fetch finds a row for every opcode. -/
theorem nothingIsRefused : Obligations.NothingIsRefused := ⟨exec_ne_refused, step_ne_refused⟩

end Sys2Proof.Machine
end

section
/-! PROOF. The fetch (R142-R145, R301): where each of its faults comes from, and that the bytes of an instruction are fetched as that
instruction. -/

namespace Sys2Proof.Machine

theorem next_zero (s : State) : s.next 0 = s.pc := BitVec.add_zero s.pc

section
variable {s : State} {k : Nat}

theorem fetchByte_of_some {v : Byte} (h : s.codeByte s.extOld (s.next k) = some v) : s.fetchByte k = .next v := by
  rw [State.fetchByte, h]

theorem fetchByte_of_lt (h : (s.next k).toNat < s.codeSize s.extOld) :
    s.fetchByte k = .next (s.regionByte s.extOld (s.next k).toNat) :=
  fetchByte_of_some (codeByte_of_lt h)

theorem fetchByte_of_ge (h : s.codeSize s.extOld ≤ (s.next k).toNat) :
    s.fetchByte k = .fault (.outOfRange (.code s.extOld) (s.next k).toNat) := by
  rw [State.fetchByte, codeByte_of_ge h]

theorem codeByte_of_fetchByte {v : Byte} (h : s.fetchByte k = .next v) : s.codeByte s.extOld (s.next k) = some v := by
  unfold State.fetchByte at h
  split at h
  · next hv =>
    cases h
    exact hv
  · cases h

theorem fetchOperand_of_lt {length : Nat} (h : k < length) : s.fetchOperand length k = s.fetchByte k := if_pos h

theorem fetchOperand_of_ge {length : Nat} (h : length ≤ k) : s.fetchOperand length k = .next 0 := if_neg h.not_gt

end

section
variable {s : State} {op : Byte} {row : OpcodeRow}

/-- An opcode that this machine has goes on to the operands of its row (R114, R144). -/
theorem fetch_eq_fetchOperands (hop : s.fetchByte 0 = .next op) (himplemented : op ∉ s.params.unimplemented)
    (hrow : decodeRow op = some row) : s.fetch = s.fetchOperands op row := by
  simp [State.fetch, hop, himplemented, hrow]

theorem fetchOperands_of_next {b1 b2 : Byte} (h1 : s.fetchOperand row.length 1 = .next b1)
    (h2 : s.fetchOperand row.length 2 = .next b2) : s.fetchOperands op row = .next ⟨op, row.build op b1 b2⟩ := by
  simp [State.fetchOperands, h1, h2]

theorem op_of_fetchOperands {f : Fetched} (h : s.fetchOperands op row = .next f) : f.op = op := by
  unfold State.fetchOperands at h
  split at h
  · split at h <;> cases h
    rfl
  · cases h
  · cases h

/-- A fetch that goes on has read its opcode byte at pc (R143). -/
theorem codeByte_of_fetch {f : Fetched} (h : s.fetch = .next f) : s.codeByte s.extOld s.pc = some f.op := by
  unfold State.fetch at h
  split at h
  · next op hop =>
    obtain ⟨row, hrow, -⟩ := exists_decodeRow op
    rw [hrow] at h
    split at h
    · cases h
    · rw [op_of_fetchOperands h, ← next_zero s]
      exact codeByte_of_fetchByte hop
  · cases h
  · cases h

/-! ## The faults of the fetch, in the order of R301 -/

theorem fetch_of_no_opcode (h : s.codeSize s.extOld ≤ s.pc.toNat) :
    s.fetch = .fault (.outOfRange (.code s.extOld) s.pc.toNat) := by
  rw [← next_zero s] at h
  rw [State.fetch, fetchByte_of_ge h, next_zero]

theorem fetch_of_unimplemented (hop : s.fetchByte 0 = .next op) (h : op ∈ s.params.unimplemented) :
    s.fetch = .fault (.illegalOpcode s.pc op) := by
  simp [State.fetch, hop, h]

theorem fetchOperands_of_no_first (hlength : 1 < row.length) (h : s.codeSize s.extOld ≤ (s.next 1).toNat) :
    s.fetchOperands op row = .fault (.outOfRange (.code s.extOld) (s.next 1).toNat) := by
  rw [State.fetchOperands, fetchOperand_of_lt hlength, fetchByte_of_ge h]

theorem fetchOperands_of_no_second (hlength : 2 < row.length) (h1 : (s.next 1).toNat < s.codeSize s.extOld)
    (h2 : s.codeSize s.extOld ≤ (s.next 2).toNat) :
    s.fetchOperands op row = .fault (.outOfRange (.code s.extOld) (s.next 2).toNat) := by
  rw [State.fetchOperands, fetchOperand_of_lt (by omega), fetchByte_of_lt h1, fetchOperand_of_lt hlength, fetchByte_of_ge h2]

/-- The boundary sets latches, which no fetch reads (R312). -/
theorem fetch_begin_boundary (s : State) : s.boundary.begin.fetch = s.begin.fetch := rfl

theorem processInstruction_of_fetch_fault {f : Fault} (h : s.begin.fetch = .fault f) (debug : Bool) :
    s.processInstruction debug = (.fault f, s.begin) := by
  rw [State.processInstruction, h]

/-- A fault of the fetch is the call's and the step's (R302, R376). -/
theorem faultsWith_of_fetch {f : Fault} (h : s.begin.fetch = .fault f) : s.FaultsWith f := by
  refine ⟨processInstruction_of_fetch_fault h, fun hrun => ?_⟩
  rw [step_of_running hrun, State.runTurn, processInstruction_of_fetch_fault ((fetch_begin_boundary s).trans h)]

end

/-- Settles O7: each clause is one fault of the fetch at the start of the instruction, whose bank is extNew (R142). -/
theorem fetchFaults : Obligations.FetchFaults := by
  refine fun s => ⟨fun hge => faultsWith_of_fetch (fetch_of_no_opcode (s := s.begin) hge), fun op hlt hbyte => ?_⟩
  have hop : s.begin.fetchByte 0 = .next op := by
    have hzero := next_zero s.begin
    rw [fetchByte_of_lt (by rw [hzero]; exact hlt), hzero]
    exact congrArg _ hbyte
  obtain ⟨row, hrow, hlength⟩ := exists_decodeRow op
  rw [← hlength]
  refine ⟨fun hmem => ?_, fun hmem hlen hge => ?_, fun hmem hlen hfirst hsecond => ?_⟩
  · exact faultsWith_of_fetch (fetch_of_unimplemented hop hmem)
  · exact faultsWith_of_fetch ((fetch_eq_fetchOperands hop hmem hrow).trans (fetchOperands_of_no_first hlen hge))
  · exact faultsWith_of_fetch
      ((fetch_eq_fetchOperands hop hmem hrow).trans (fetchOperands_of_no_second (by omega) hfirst hsecond))

/-! ## The bytes of an instruction -/

/-- These bytes stand at pc and after it, in the bank of the current instruction (R142, R145). -/
def State.CodeAt (s : State) (bytes : List Byte) : Prop :=
  ∀ k, k < bytes.length → s.codeByte s.extOld (s.next k) = bytes[k]?

/-- An operand byte is fetched as it stands; past the end of the instruction nothing is fetched, and the decoder reads 0 there. -/
theorem fetchOperand_of_codeAt {s : State} {op : Byte} {tail : List Byte} (h : s.CodeAt (op :: tail)) (k : Nat) :
    s.fetchOperand (tail.length + 1) (k + 1) = .next (tail.getD k 0) := by
  by_cases hk : k < tail.length
  · have hbyte : s.codeByte s.extOld (s.next (k + 1)) = tail[k]? := h (k + 1) (Nat.succ_lt_succ hk)
    rw [fetchOperand_of_lt (Nat.succ_lt_succ hk), List.getD_eq_getElem _ _ hk]
    exact fetchByte_of_some (hbyte.trans (List.getElem?_eq_getElem hk))
  · have hge : tail.length ≤ k := Nat.le_of_not_lt hk
    rw [fetchOperand_of_ge (Nat.succ_le_succ hge), List.getD_eq_default _ _ hge]

/-- The opcode byte of a decoded instruction is its first byte, because the encoder inverts the decoder. -/
theorem opcode_of_decode {op : Byte} {tail rest : List Byte} {i : Instr} (h : decode (op :: tail) = .ok (i, rest)) :
    i.opcode = op := by
  obtain ⟨row, hrow, -, rfl, -⟩ := decode_cons_eq_ok_iff.mp h
  obtain ⟨hmem, hop⟩ := decodeRow_eq_some_iff.mp hrow
  rw [Instr.opcode, faithful_of_mem_opcodeRows row hmem _ _ _ hop, List.headD_cons]

/-- The row of bytes that decode to the last one is as long as they are. -/
theorem row_length_of_decode {op : Byte} {tail : List Byte} {i : Instr} (h : decode (op :: tail) = .ok (i, [])) :
    ∃ row, decodeRow op = some row ∧ row.length = tail.length + 1 ∧ i = row.build op (tail.getD 0 0) (tail.getD 1 0) := by
  obtain ⟨row, hrow, hle, hbuild, hrest⟩ := decode_cons_eq_ok_iff.mp h
  obtain ⟨hge, -⟩ := length_of_mem_opcodeRows row (decodeRow_eq_some_iff.mp hrow).1
  have hdrop : tail.length ≤ row.length - 1 := List.drop_eq_nil_iff.mp hrest.symm
  exact ⟨row, hrow, by omega, hbuild⟩

/-- The fetch reads the instruction that the bytes at pc decode to. -/
theorem fetch_of_codeAt {s : State} {i : Instr} {bytes : List Byte} (hdecode : decode bytes = .ok (i, []))
    (hwf : i.wellFormed s.params.unimplemented = true) (hcode : s.CodeAt bytes) : s.fetch = .next ⟨i.opcode, i⟩ := by
  cases bytes with
  | nil => cases hdecode
  | cons op tail =>
    have hopcode := opcode_of_decode hdecode
    obtain ⟨row, hrow, hlength, hbuild⟩ := row_length_of_decode hdecode
    have himplemented : op ∉ s.params.unimplemented := by simpa [Instr.wellFormed, hopcode] using hwf
    have hop : s.fetchByte 0 = .next op := fetchByte_of_some (hcode 0 (Nat.succ_pos _))
    have hoperand (k : Nat) : s.fetchOperand row.length (k + 1) = .next (tail.getD k 0) :=
      hlength ▸ fetchOperand_of_codeAt hcode k
    rw [fetch_eq_fetchOperands hop himplemented hrow, fetchOperands_of_next (hoperand 0) (hoperand 1), hopcode, hbuild]

/-! ## The step -/

/-- The state an instruction starts in (R141, R142, R312). -/
theorem begin_boundary_eq (s : State) : s.boundary.begin =
    { s with
      latches := s.latches.setAll (s.env.headD [])
      env := s.env.tail
      run := .started
      extOld := s.extNew
      extNew := Bank.ofExt s.ext } := rfl

theorem finish_eq (s : State) (n : Nat) : s.finish n = (State.tickN n s).poll := by
  rw [State.finish, ticks_eq_tickN]

/-- Settles O6: the fetch reads the instruction, and the rest of the turn goes by what exec answers. -/
theorem stepRunsDecodedInstruction : Obligations.StepRunsDecodedInstruction := by
  intro s i bytes hdecode hwf hbytes hrun
  have hfetch : s.boundary.begin.fetch = .next ⟨i.opcode, i⟩ := fetch_of_codeAt hdecode hwf hbytes
  rw [step_of_running hrun, State.runTurn, State.processInstruction, hfetch, ← begin_boundary_eq]
  dsimp only
  cases exec i s.boundary.begin with
  | next t => exact congrArg _ (finish_eq t _)
  | fault f => rfl
  | refused r => rfl

end Sys2Proof.Machine
end

section
/-! PROOF. What a step leaves of run, the bank latches and the fixed parts of the machine (R54, R141, R142, R312), the ticks it counts
(R147, R322, R341), and the return from a call (R154, R277-R280). -/

namespace Sys2Proof.Machine

/-! ## Run, the bank latches and what no step changes -/

/-- What a turn writes at its boundary and at the start of its instruction or not at all: run, the bank latches and the environment, and
ROM, the parameters and the clock metadata. -/
def State.cyclePart (s : State) : RunState × Bank × Bank × List (List Source) × Memory × Params × BitVec 64 :=
  (s.run, s.extOld, s.extNew, s.env, s.rom, s.params, s.frequency)

theorem exec_cyclePart {i : Instr} {s t : State} (h : exec i s = .next t) : t.cyclePart = s.cyclePart := by
  obtain ⟨-, hrun, hextOld, hextNew, hrom, hfrequency, hparams, henv, -⟩ := instructionsLeaveTheRestAlone i s t h
  simp only [State.cyclePart, hrun, hextOld, hextNew, hrom, hfrequency, hparams, henv]

theorem poll_cyclePart (s : State) : s.poll.cyclePart = s.cyclePart := by
  cases h : s.taken with
  | none => rw [poll_of_none h]
  | some src => simp [poll_of_some h, State.cyclePart]

theorem finish_cyclePart (s : State) (n : Nat) : (s.finish n).cyclePart = s.cyclePart := poll_cyclePart (s.ticks n)

theorem step_cyclePart {s t : State} (h : step s = .next t) :
    t.cyclePart = if s.halted = true then s.boundary.cyclePart else s.boundary.begin.cyclePart := by
  obtain ⟨hhalted, rfl⟩ | ⟨hrun, f, u, -, hexec, rfl⟩ := step_next h
  · rw [if_pos hhalted]
    exact finish_cyclePart _ _
  · rw [if_neg (by simp [hrun]), finish_cyclePart, exec_cyclePart hexec]

/-- Settles O10: of what the turn's first state has, neither the instruction nor the ticks and the poll write anything. -/
theorem stepAdvancesBankLatch : Obligations.StepAdvancesBankLatch := by
  intro s t h
  have hpart := step_cyclePart h
  cases hhalted : s.halted with
  | true =>
    simp only [hhalted, if_true, State.cyclePart, Prod.mk.injEq] at hpart
    obtain ⟨hrun, hextOld, hextNew, hfixed⟩ := hpart
    exact ⟨nofun, fun _ => ⟨hrun, hextOld, hextNew⟩, hfixed⟩
  | false =>
    simp only [hhalted, Bool.false_eq_true, if_false, State.cyclePart, Prod.mk.injEq] at hpart
    obtain ⟨hrun, hextOld, hextNew, hfixed⟩ := hpart
    exact ⟨fun _ => ⟨hrun, hextOld, hextNew⟩, nofun, hfixed⟩

/-! ## The latency of the bank latch -/

theorem codeByte_of_begin_fetch {s : State} {f : Fetched} (h : s.boundary.begin.fetch = .next f) :
    s.codeByte s.extNew s.pc = some f.op := codeByte_of_fetch (s := s.begin) (fetch_begin_boundary s ▸ h)

/-- A step that fetches reads its opcode in the bank the step before sampled, and samples EXT for the step after it (R142). -/
theorem step_bankLatch {s t : State} (h : step s = .next t) (hrun : s.halted = false) :
    t.extOld = s.extNew ∧ t.extNew = Bank.ofExt s.ext ∧ ∃ op, s.codeByte s.extNew s.pc = some op := by
  obtain ⟨hfetching, -⟩ := stepAdvancesBankLatch s t h
  obtain ⟨-, hextOld, hextNew⟩ := hfetching hrun
  refine ⟨hextOld, hextNew, ?_⟩
  obtain ⟨hhalted, -⟩ | ⟨-, f, -, hfetch, -⟩ := step_next h
  · simp [hrun] at hhalted
  · exact ⟨f.op, codeByte_of_begin_fetch hfetch⟩

/-- Settles O11: each step's fetch bank is the extNew of the step before, which sampled EXT one step earlier still. -/
theorem bankSwitchTakesTwoSteps : Obligations.BankSwitchTakesTwoSteps := by
  intro s t u v hs ht hu hsrun htrun hurun
  obtain ⟨htOld, htNew, hsop⟩ := step_bankLatch hs hsrun
  obtain ⟨huOld, huNew, htop⟩ := step_bankLatch ht htrun
  obtain ⟨hvOld, hvNew, huop⟩ := step_bankLatch hu hurun
  rw [htNew] at huOld htop
  rw [huNew] at hvOld huop
  exact ⟨htOld, htNew, hsop, huOld, huNew, htop, hvOld, hvNew, huop⟩

/-! ## The ticks of a step -/

theorem one_le_cycles (p : Params) (op : Byte) : 1 ≤ p.cycles op := Nat.le_add_right ..

theorem ticks_cycles (s : State) (n : Nat) : (s.ticks n).t1.cycles = s.t1.cycles + n := tickN_cycles n s

/-- An instruction counts no tick itself (R341). -/
theorem exec_cycles {i : Instr} {s t : State} (h : exec i s = .next t) : t.t1.cycles = s.t1.cycles := by
  obtain ⟨-, -, -, -, -, -, -, -, ht1, -⟩ := instructionsLeaveTheRestAlone i s t h
  rw [ht1]

theorem exec_params {i : Instr} {s t : State} (h : exec i s = .next t) : t.params = s.params := by
  obtain ⟨-, -, -, -, -, -, hparams, -⟩ := instructionsLeaveTheRestAlone i s t h
  exact hparams

theorem poll_cycles (s : State) :
    s.poll.t1.cycles = s.t1.cycles + if s.taken.isSome then s.params.entryTicks else 0 := by
  cases h : s.taken with
  | none => rw [poll_of_none h]; rfl
  | some src => rw [poll_of_some h, ticks_cycles, wake_t1, enter_t1]; rfl

theorem finish_cycles (s : State) (n : Nat) :
    (s.finish n).t1.cycles = s.t1.cycles + n + if (s.ticks n).taken.isSome then s.params.entryTicks else 0 := by
  rw [State.finish, poll_cycles, ticks_cycles, ticks_params]

/-- Settles O12: the state before the poll is that after the ticks the instruction owes, or after the one tick of a waiting step. -/
theorem stepCountsItsTicks : Obligations.StepCountsItsTicks := by
  intro s t h
  obtain ⟨hhalted, rfl⟩ | ⟨hrun, f, u, hfetch, hexec, rfl⟩ := step_next h
  · exact ⟨1, s.boundary.ticks 1, le_rfl, ticks_cycles _ _, rfl, by simp [hhalted], fun _ => rfl, finish_cycles _ _⟩
  · have hcycles : u.t1.cycles = s.t1.cycles := exec_cycles (s := s.boundary.begin) hexec
    have hparams : u.params = s.params := exec_params (s := s.boundary.begin) hexec
    refine ⟨s.params.cycles f.op, u.ticks (s.params.cycles f.op), one_le_cycles _ _, ?_, rfl,
      fun _ => ⟨f.op, codeByte_of_begin_fetch hfetch, rfl⟩, by simp [hrun], ?_⟩
    · rw [ticks_cycles, hcycles]
    · rw [finish_cycles, hcycles, hparams]

/-! ## The return from a call -/

/-- RET after a pushed return address and a jump anywhere is at that address, with SP as before the push (R154, R280). -/
theorem exec_ret_jump_pushPc (s : State) (ra target : CodeAddr) :
    exec .ret ((s.pushPc ra).jump target) = .next { s with pc := ra, ram := ((s.pushPc ra).jump target).ram } := by
  have hswap : (s.pushPc ra).jump target = (s.jump target).pushPc ra := rfl
  rw [hswap]
  exact congrArg _ (popPc_pushPc (s.jump target) ra fun t s => s.jump t)

/-- Settles O56: the three calls push the address of the next instruction and jump, so they differ in length and target alone. -/
theorem retReturnsFromCall : Obligations.RetReturnsFromCall := fun s =>
  ⟨fun a => ⟨_, rfl, exec_ret_jump_pushPc s (s.next 2) (s.blockTarget 2 a)⟩,
    fun a => ⟨_, rfl, exec_ret_jump_pushPc s (s.next 3) a⟩,
    fun r => ⟨_, rfl, exec_ret_jump_pushPc s (s.next 3) (s.relTarget16 3 r)⟩⟩

end Sys2Proof.Machine
end

section
/-! PROOF. The data transfer instructions (41_data_transfer.md): their opcode bytes (R102), and each transfer as one read or write of a
shared operation followed by pc. -/

namespace Sys2Proof.Machine

/-! ## Encodings (R102) -/

/-- R102 writes d8 by a shift, the encoder by a field. -/
theorem or_d8Bit_eq_opD (base : Byte) (a : DataAddr) : base ||| d8Bit a = opD base a := by
  have ha8 : (a.extractLsb' 8 1).setWidth 8 = (a >>> 8).setWidth 8 := by
    apply BitVec.eq_of_toNat_eq
    simp only [BitVec.toNat_setWidth, BitVec.extractLsb'_toNat, BitVec.toNat_ushiftRight]
    omega
  rw [d8Bit, opD, ha8]

theorem d9Low_eq (a : DataAddr) : d9Low a = a.setWidth 8 := (BitVec.setWidth_eq_extractLsb' (by decide)).symm

/-- Formats D, DI and DR: the bytes after the two of the d9 are the rest of the operands. -/
theorem encodes_d9 {i : Instr} {base : Byte} {a : DataAddr} {tail : List Byte}
    (h : encode i = (base ||| d8Bit a) :: d9Low a :: tail) : Encodes i (opD base a :: a.setWidth 8 :: tail) := by
  rw [encodes_iff, h, or_d8Bit_eq_opD, d9Low_eq]

/-- Formats J, JI, JR and JIR. -/
theorem encodes_rj {i : Instr} {base : Byte} {j : BitVec 2} {tail : List Byte}
    (h : encode i = (base ||| rjBits j) :: tail) : Encodes i (opJ base j :: tail) := encodes_iff.mpr h

/-! ## A write, and then pc -/

section
variable (s : State) (a : DataAddr) (v : Byte) (n : Nat)

theorem accWritten_setAcc_advance : AccWritten { s with pc := s.next n } ((s.setAcc v).advance n) v :=
  accWritten_pc (accWritten_setAcc s v) (s.next n)

theorem advance_store : (s.store a v).advance n = { s.store a v with pc := s.next n } := by
  rw [State.advance, store_next, State.jump]

theorem dataWritten_store_advance : DataWritten { s with pc := s.next n } ((s.store a v).advance n) a v := by
  rw [advance_store]
  exact dataWritten_pc (dataWritten_store s a v) (s.next n)

theorem ramWritten_setRam_advance (k : Nat) (x : Byte) : RamWritten { s with pc := s.next n } ((s.setRam k x v).advance n) k x v :=
  ramWritten_setRam { s with pc := s.next n } k x v

/-! ## Load, exchange, push and pop -/

theorem accWritten_loadAcc : AccWritten { s.afterRead a with pc := s.next n } (s.loadAcc a n) (s.dataByte a) := by
  have h := accWritten_setAcc_advance (s.afterRead a) (s.dataByte a) n
  rwa [afterRead_next] at h

/-- The state between the two writes of XCH (R189): the data byte is stored, and ACC is not yet made the byte read. -/
def State.exchangeStored (s : State) (a : DataAddr) (n : Nat) : State := ((s.afterRead a).store a s.acc).advance n

theorem dataWritten_exchangeStored : DataWritten { s.afterRead a with pc := s.next n } (s.exchangeStored a n) a s.acc := by
  have h := dataWritten_store_advance (s.afterRead a) a s.acc n
  rwa [afterRead_next] at h

theorem exchange_eq : s.exchange a n = (s.exchangeStored a n).setAcc (s.dataByte a) := by
  rw [State.exchange, State.load, afterRead_acc]
  rfl

theorem accWritten_exchange : AccWritten (s.exchangeStored a n) (s.exchange a n) (s.dataByte a) := by
  rw [exchange_eq]
  exact accWritten_setAcc (s.exchangeStored a n) (s.dataByte a)

/-- PUSH reads and stores with SP already raised: the read leaves SP, so the store is at the new SP. -/
theorem exec_push :
    exec (.push a) s = .next (((s.incSp.afterRead a).setRam 0 (s.sp + 1) (s.incSp.dataByte a)).advance 2) := by
  have hsp : (s.incSp.afterRead a).sp = s.sp + 1 := afterRead_sp s.incSp a
  rw [← hsp]
  rfl

theorem exec_pop : exec (.pop a) s = .next ((s.store a (s.ramByte 0 s.sp)).decSp.advance 2) := rfl

end

/-! ## The table read -/

section
variable {s : State}

theorem exec_ldc_of_lt (h : s.tableAddr.toNat < s.codeSize s.extOld) :
    exec .ldc s = .next ((s.setAcc (s.regionByte s.extOld s.tableAddr.toNat)).advance 1) := by
  rw [exec, execLdc, codeByte_of_lt h]

theorem exec_ldc_of_ge (h : s.codeSize s.extOld ≤ s.tableAddr.toNat) :
    exec .ldc s = .fault (.outOfRange (.code s.extOld) s.tableAddr.toNat) := by
  rw [exec, execLdc, codeByte_of_ge h]

end

/-! ## The obligations -/

/-- Settles O35: the two forms differ in address and length alone. -/
theorem loadsWriteAcc : Obligations.LoadsWriteAcc :=
  ⟨fun _ => encodes_d9 rfl, fun _ => encodes_rj rfl,
    fun a s => ⟨_, rfl, accWritten_loadAcc s a 2⟩,
    fun j s => ⟨_, rfl, accWritten_loadAcc s (s.indirect j) 1⟩⟩

/-- Settles O36: the four forms differ in address, byte stored and length alone. -/
theorem storesWriteData : Obligations.StoresWriteData :=
  ⟨fun _ => encodes_d9 rfl, fun _ => encodes_rj rfl, fun _ _ => encodes_d9 rfl, fun _ _ => encodes_rj rfl,
    fun a s => ⟨_, rfl, dataWritten_store_advance s a s.acc 2⟩,
    fun j s => ⟨_, rfl, dataWritten_store_advance s (s.indirect j) s.acc 1⟩,
    fun v a s => ⟨_, rfl, dataWritten_store_advance s a v 3⟩,
    fun v j s => ⟨_, rfl, dataWritten_store_advance s (s.indirect j) v 2⟩⟩

/-- Settles O37: the state between the two writes is `exchangeStored`. -/
theorem exchangeSwaps : Obligations.ExchangeSwaps :=
  ⟨fun _ => encodes_d9 rfl, fun _ => encodes_rj rfl,
    fun a s => ⟨_, s.exchangeStored a 2, rfl, dataWritten_exchangeStored s a 2, accWritten_exchange s a 2⟩,
    fun j s => ⟨_, s.exchangeStored (s.indirect j) 1, rfl, dataWritten_exchangeStored s (s.indirect j) 1,
      accWritten_exchange s (s.indirect j) 1⟩⟩

/-- Settles O38: PUSH is one RAM write after the read, and the read leaves pc. -/
theorem pushStoresOnStack : Obligations.PushStoresOnStack := by
  refine ⟨fun _ => encodes_d9 rfl, fun a s => ⟨_, exec_push s a, ?_⟩⟩
  have h := ramWritten_setRam_advance (s.incSp.afterRead a) (s.incSp.dataByte a) 2 0 (s.sp + 1)
  rwa [afterRead_next] at h

/-- Settles O39: the write of the destination leaves pc, so only SP is read from what it left. -/
theorem popWritesThenLowersSp : Obligations.PopWritesThenLowersSp := by
  refine ⟨fun _ => encodes_d9 rfl, fun a s =>
    ⟨_, s.store a (s.ramByte 0 s.sp), dataWritten_store s a (s.ramByte 0 s.sp), exec_pop s a, ?_⟩⟩
  have hpc : (s.store a (s.ramByte 0 s.sp)).next 2 = s.pc + 2 := store_next ..
  rw [← hpc]
  rfl

/-- Settles O40: the two cases are whether the region has the table address. -/
theorem ldcReadsCode : Obligations.LdcReadsCode := by
  refine ⟨encodes_iff.mpr rfl, ?_⟩
  rintro s a rfl
  rw [← tableAddr_toNat]
  exact ⟨fun hlt => ⟨_, exec_ldc_of_lt hlt, accWritten_setAcc_advance s (s.regionByte s.extOld s.tableAddr.toNat) 1⟩,
    exec_ldc_of_ge⟩

end Sys2Proof.Machine
end

section
/-! PROOF. The arithmetic instructions (42_arithmetic.md): each writes an ALU result, the bytes of a product or quotient, or a modified data
byte, and then pc; the bytes and flags are those of the exact numbers. -/

namespace Sys2Proof.Machine

/-! ## The three operand forms -/

section
variable (s : State) (o : Operand)

@[simp] theorem afterOperand_psw : (s.afterOperand o).psw = s.psw := by cases o <;> simp [State.afterOperand]

@[simp] theorem afterOperand_next (n : Nat) : (s.afterOperand o).next n = s.next n := by cases o <;> simp [State.afterOperand]

end

section
variable {imm : Byte → Instr} {direct : DataAddr → Instr} {indirect : BitVec 2 → Instr}

theorem aluEncodings_of_encode {baseI baseD baseJ : Byte} (himm : ∀ v, encode (imm v) = [baseI, v])
    (hdirect : ∀ a, encode (direct a) = [baseD ||| d8Bit a, d9Low a]) (hindirect : ∀ j, encode (indirect j) = [baseJ ||| rjBits j]) :
    AluEncodings imm direct indirect baseI baseD baseJ :=
  ⟨fun v => encodes_iff.mpr (himm v), fun a => encodes_d9 (hdirect a), fun j => encodes_rj (hindirect j)⟩

/-- Three instructions that are one function of the operand, the carry in and the length meet an effect when that function does: reading
the operand leaves the PSW that the carry in is read from. -/
theorem aluForms_of_carryIn {effect : State → State → Byte → Bool → Prop} (run : State → Operand → Bool → Nat → State)
    (carry : Byte → Bool) (himm : ∀ v s, exec (imm v) s = .next (run s (.imm v) (carry s.psw) 2))
    (hdirect : ∀ a s, exec (direct a) s = .next (run s (.d9 a) (carry s.psw) 2))
    (hindirect : ∀ j s, exec (indirect j) s = .next (run s (.ind j) (carry s.psw) 1))
    (heffect : ∀ s c o n, effect { s.afterOperand o with pc := s.next n } (run s o c n) (s.operandByte o) c) :
    AluForms imm direct indirect fun s t v => effect s t v (carry s.psw) := by
  have hform (s : State) (o : Operand) (n : Nat) :
      effect { s.afterOperand o with pc := s.next n } (run s o (carry s.psw) n) (s.operandByte o) (carry (s.afterOperand o).psw) := by
    rw [afterOperand_psw]
    exact heffect s (carry s.psw) o n
  exact ⟨fun v s => ⟨_, himm v s, hform s (.imm v) 2⟩, fun a s => ⟨_, hdirect a s, hform s (.d9 a) 2⟩,
    fun j s => ⟨_, hindirect j s, hform s (.ind j) 1⟩⟩

end

/-! ## Additions and subtractions -/

section
variable (s : State) (v : Byte) (c : Bool) (o : Operand) (n : Nat)

theorem added_putAlu : Added s (s.putAlu (add8 s.acc v c)) v c := by
  obtain ⟨hframe, hcy, hac, hov, hkept, hparity⟩ := putAlu_effect s (add8 s.acc v c)
  obtain ⟨hvalue, hcarry, hhalf, hoverflow⟩ := add8_spec s.acc v c
  exact ⟨hvalue, hcy.trans hcarry, hac.trans hhalf, hov.trans hoverflow, hkept, hparity, hframe⟩

theorem subtracted_putAlu : Subtracted s (s.putAlu (sub8 s.acc v c)) v c := by
  obtain ⟨hframe, hcy, hac, hov, hkept, hparity⟩ := putAlu_effect s (sub8 s.acc v c)
  obtain ⟨hvalue, hborrow, hhalf, hoverflow⟩ := sub8_spec s.acc v c
  exact ⟨hvalue, hcy.trans hborrow, hac.trans hhalf, hov.trans hoverflow, hkept, hparity, hframe⟩

/-- An ALU result does not depend on pc, so pc may as well move first, as the statements have it. -/
theorem advance_putAlu (r : AluResult) : (s.putAlu r).advance n = State.putAlu { s with pc := s.next n } r := rfl

theorem added_addOperand : Added { s.afterOperand o with pc := s.next n } (s.addOperand o c n) (s.operandByte o) c := by
  rw [State.addOperand, State.loadOperand, advance_putAlu, afterOperand_next]
  exact added_putAlu { s.afterOperand o with pc := s.next n } (s.operandByte o) c

theorem subtracted_subOperand : Subtracted { s.afterOperand o with pc := s.next n } (s.subOperand o c n) (s.operandByte o) c := by
  rw [State.subOperand, State.loadOperand, advance_putAlu, afterOperand_next]
  exact subtracted_putAlu { s.afterOperand o with pc := s.next n } (s.operandByte o) c

end

/-! ## Wide results -/

/-- The high and the low byte of a 16-bit quotient, as R216 writes them. -/
theorem toNat_eq_two_bytes (q : BitVec 16) : (q.extractLsb' 8 8).toNat * 256 + (q.extractLsb' 0 8).toNat = q.toNat := by
  rw [← toNat_append_byte, BitVec.extractLsb'_append_extractLsb']

/-- The three bytes of a 24-bit product, as R215 writes them. -/
theorem toNat_eq_three_bytes (p : BitVec 24) :
    (p.extractLsb' 16 8).toNat * 65536 + (p.extractLsb' 8 8).toNat * 256 + (p.extractLsb' 0 8).toNat = p.toNat := by
  simp only [BitVec.extractLsb'_toNat, Nat.shiftRight_eq_div_pow]
  omega

theorem mulProduct_toNat (acc c b : Byte) : (mulProduct acc c b).toNat = (acc.toNat * 256 + c.toNat) * b.toNat := by
  have hfits : (acc ++ c : BitVec 16).toNat * b.toNat < 2 ^ 16 * 2 ^ 8 := Nat.mul_lt_mul'' (acc ++ c).isLt b.isLt
  rw [← Nat.pow_add] at hfits
  rw [mulProduct, BitVec.toNat_ofNat, Nat.mod_eq_of_lt hfits, toNat_append_byte]

theorem divQuotient_toNat (acc c b : Byte) : (divQuotient acc c b).toNat = (acc.toNat * 256 + c.toNat) / b.toNat := by
  have hfits : (acc ++ c : BitVec 16).toNat / b.toNat < 2 ^ 16 := (Nat.div_le_self ..).trans_lt (acc ++ c).isLt
  rw [divQuotient, BitVec.toNat_ofNat, Nat.mod_eq_of_lt hfits, toNat_append_byte]

theorem divRemainder_toNat (acc c : Byte) {b : Byte} (hb : 0 < b.toNat) :
    (divRemainder acc c b).toNat = (acc.toNat * 256 + c.toNat) % b.toNat := by
  have hfits : (acc ++ c : BitVec 16).toNat % b.toNat < 2 ^ 8 := (Nat.mod_lt _ hb).trans b.isLt
  rw [divRemainder, BitVec.toNat_ofNat, Nat.mod_eq_of_lt hfits, toNat_append_byte]

/-- The bytes of R216 are the quotient and the remainder of the numbers. -/
theorem division_bytes (acc c : Byte) {b : Byte} (hb : 0 < b.toNat) :
    (((divQuotient acc c b).extractLsb' 8 8).toNat * 256 + ((divQuotient acc c b).extractLsb' 0 8).toNat) * b.toNat +
      (divRemainder acc c b).toNat = acc.toNat * 256 + c.toNat ∧ (divRemainder acc c b).toNat < b.toNat := by
  rw [toNat_eq_two_bytes, divQuotient_toNat, divRemainder_toNat acc c hb]
  exact ⟨Nat.div_add_mod' .., Nat.mod_lt _ hb⟩

/-- ACC, C and B, then CY cleared and OV put, then pc: the end of MUL and DIV (R215, R216). -/
def State.wideResult (s : State) (hi lo b : Byte) (ov : Bool) : State := ((s.putDivision hi lo b).putCyOv false ov).advance 1

section
variable (s : State)

/-- R215 names B first; the three cells are distinct, so the order does not show. -/
theorem exec_mul : exec .mul s = .next (s.wideResult ((mulProduct s.acc s.c s.b).extractLsb' 8 8)
    ((mulProduct s.acc s.c s.b).extractLsb' 0 8) ((mulProduct s.acc s.c s.b).extractLsb' 16 8)
    (mulOverflow (mulProduct s.acc s.c s.b))) := rfl

theorem exec_div_of_ne_zero (h : s.b ≠ 0) : exec .div s = .next (s.wideResult ((divQuotient s.acc s.c s.b).extractLsb' 8 8)
    ((divQuotient s.acc s.c s.b).extractLsb' 0 8) (divRemainder s.acc s.c s.b) false) := if_pos h

theorem exec_div_of_zero (h : s.b = 0) : exec .div s = .next ((s.draw 3).wideResult (Config.freeByte s.draws)
    (Config.freeByte (s.draws + 1)) (Config.freeByte (s.draws + 2)) true) := if_neg (not_not_intro h)

variable (hi lo b : Byte) (ov : Bool)

theorem wideResult_psw_getLsbD (k : Nat) : (s.wideResult hi lo b ov).psw.getLsbD k =
    if k = 2 then ov else if k = 7 then false else (s.setAcc hi).psw.getLsbD k :=
  putCyOv_getLsbD (s.putDivision hi lo b) false ov k

/-- A wide result writes ACC, C, B, pc and PSW, and of PSW only CY, OV and, as R35 says, P. -/
theorem wideResult_effect : (s.wideResult hi lo b ov).psw.getLsbD 7 = false ∧ (s.wideResult hi lo b ov).psw.getLsbD 2 = ov ∧
    PswKept s (s.wideResult hi lo b ov) [7, 2, 0] ∧ ParityFollows s (s.wideResult hi lo b ov) ∧
    s.wideResult hi lo b ov = { s with acc := hi, b := b, c := lo, psw := (s.wideResult hi lo b ov).psw, pc := s.pc + 1 } := by
  have hbit := wideResult_psw_getLsbD s hi lo b ov
  obtain ⟨-, hkept, hparity⟩ := accWritten_setAcc s hi
  refine ⟨(hbit 7).trans rfl, (hbit 2).trans rfl, fun k hk => ?_, (hbit 0).trans hparity, rfl⟩
  obtain ⟨h7, h2, h0⟩ : k ≠ 7 ∧ k ≠ 2 ∧ k ≠ 0 := by simpa using hk
  rw [hbit, if_neg h2, if_neg h7]
  exact hkept k (by simpa using h0)

end

/-! ## Increments and decrements -/

theorem dataWritten_modify_advance (s : State) (a : DataAddr) (f : Byte → Byte) (n : Nat) :
    DataWritten { s.afterRead a with pc := s.next n } ((s.modify a f).advance n) a (f (s.dataByte a)) := by
  have h := dataWritten_store_advance (s.afterRead a) a (f (s.dataByte a)) n
  rwa [afterRead_next] at h

theorem ofNat_succ_mod (v : Byte) : BitVec.ofNat 8 ((v.toNat + 1) % 256) = v + 1 := by bv_omega

theorem ofNat_pred_mod (v : Byte) : BitVec.ofNat 8 ((v.toNat + 255) % 256) = v - 1 := by bv_omega

/-! ## The obligations -/

/-- Settles O41: all six forms are `addOperand`, with no carry in or CY before the instruction. -/
theorem additions : Obligations.Additions :=
  ⟨aluEncodings_of_encode (fun _ => rfl) (fun _ => rfl) fun _ => rfl,
    aluEncodings_of_encode (fun _ => rfl) (fun _ => rfl) fun _ => rfl,
    aluForms_of_carryIn State.addOperand (fun _ => false) (fun _ _ => rfl) (fun _ _ => rfl) (fun _ _ => rfl) added_addOperand,
    aluForms_of_carryIn State.addOperand (fun psw => psw.getLsbD 7) (fun _ _ => rfl) (fun _ _ => rfl) (fun _ _ => rfl) added_addOperand⟩

/-- Settles O42: all six forms are `subOperand`, with no borrow in or CY before the instruction. -/
theorem subtractions : Obligations.Subtractions :=
  ⟨aluEncodings_of_encode (fun _ => rfl) (fun _ => rfl) fun _ => rfl,
    aluEncodings_of_encode (fun _ => rfl) (fun _ => rfl) fun _ => rfl,
    aluForms_of_carryIn State.subOperand (fun _ => false) (fun _ _ => rfl) (fun _ _ => rfl) (fun _ _ => rfl) subtracted_subOperand,
    aluForms_of_carryIn State.subOperand (fun psw => psw.getLsbD 7) (fun _ _ => rfl) (fun _ _ => rfl) (fun _ _ => rfl) subtracted_subOperand⟩

/-- Settles O43: the three bytes written are those of a product that 24 bits hold. -/
theorem mulGivesProduct : Obligations.MulGivesProduct := by
  refine ⟨encodes_iff.mpr rfl, fun s => ⟨_, exec_mul s, ?_, ?_⟩⟩
  · rw [← mulProduct_toNat]
    exact toNat_eq_three_bytes (mulProduct s.acc s.c s.b)
  · rw [← mulProduct_toNat]
    exact wideResult_effect ..

/-- Settles O44: quotient and remainder are those of the numbers where B is not 0; what is written beside the three bytes does not depend
on them. -/
theorem divGivesQuotientAndRemainder : Obligations.DivGivesQuotientAndRemainder := by
  refine ⟨encodes_iff.mpr rfl, fun s hb => ⟨_, exec_div_of_ne_zero s hb, ?_⟩, fun s hb => ⟨_, exec_div_of_zero s hb, ?_⟩⟩
  · obtain ⟨hdividend, hremainder⟩ := division_bytes s.acc s.c (b := s.b) (by bv_omega)
    exact ⟨hdividend, hremainder, wideResult_effect ..⟩
  · exact wideResult_effect (s.draw 3) ..

/-- Settles O45: the four forms differ in address, length and the function of the byte read alone. -/
theorem incrementsAndDecrements : Obligations.IncrementsAndDecrements := by
  simp only [Obligations.IncrementsAndDecrements, ofNat_succ_mod, ofNat_pred_mod]
  exact ⟨fun _ => encodes_d9 rfl, fun _ => encodes_rj rfl, fun _ => encodes_d9 rfl, fun _ => encodes_rj rfl,
    fun a s => ⟨_, rfl, dataWritten_modify_advance s a (fun v => v + 1) 2⟩,
    fun j s => ⟨_, rfl, dataWritten_modify_advance s (s.indirect j) (fun v => v + 1) 1⟩,
    fun a s => ⟨_, rfl, dataWritten_modify_advance s a (fun v => v - 1) 2⟩,
    fun j s => ⟨_, rfl, dataWritten_modify_advance s (s.indirect j) (fun v => v - 1) 1⟩⟩

end Sys2Proof.Machine
end

section
/-! PROOF. The logical and rotate instructions (43_logical.md): each writes one byte to ACC, said bit by bit, and pc; ROLC and RORC write CY
as well. -/

namespace Sys2Proof.Machine

/-! ## The bitwise instructions -/

section
variable {imm : Byte → Instr} {direct : DataAddr → Instr} {indirect : BitVec 2 → Instr} {f : Byte → Byte → Byte} {op : Bool → Bool → Bool}

/-- t is s with every bit of ACC combined with the operand's bit of that number; the flags are those a write of ACC leaves. -/
def BitwiseWritten (op : Bool → Bool → Bool) (s t : State) (v : Byte) : Prop :=
  AccWritten s t t.acc ∧ ∀ k, t.acc.getLsbD k = op (s.acc.getLsbD k) (v.getLsbD k)

theorem bitwiseWritten_logicOperand (hf : ∀ x y k, (f x y).getLsbD k = op (x.getLsbD k) (y.getLsbD k)) (s : State) (o : Operand) (n : Nat) :
    BitwiseWritten op { s.afterOperand o with pc := s.next n } (s.logicOperand o f n) (s.operandByte o) := by
  have hacc := accWritten_setAcc_advance (s.afterOperand o) (f (s.afterOperand o).acc (s.operandByte o)) n
  rw [afterOperand_next] at hacc
  exact ⟨hacc, hf (s.afterOperand o).acc (s.operandByte o)⟩

/-- Three instructions that are `logicOperand` of one bitwise function meet its effect: no carry in is read. -/
theorem aluForms_of_logicOperand (hf : ∀ x y k, (f x y).getLsbD k = op (x.getLsbD k) (y.getLsbD k))
    (himm : ∀ v s, exec (imm v) s = .next (s.logicOperand (.imm v) f 2))
    (hdirect : ∀ a s, exec (direct a) s = .next (s.logicOperand (.d9 a) f 2))
    (hindirect : ∀ j s, exec (indirect j) s = .next (s.logicOperand (.ind j) f 1)) :
    AluForms imm direct indirect (BitwiseWritten op) :=
  aluForms_of_carryIn (effect := fun s t v _ => BitwiseWritten op s t v) (fun s o _ n => s.logicOperand o f n) (fun _ => false)
    himm hdirect hindirect fun s _ => bitwiseWritten_logicOperand hf s

end

/-! ## The rotated byte -/

section
variable (x : Byte) (c : Bool)

theorem rolByte_getLsbD {k : Nat} (hk : k < 8) : (rolByte x).getLsbD k = x.getLsbD ((k + 7) % 8) := by
  rw [rolByte, BitVec.getLsbD_or, BitVec.getLsbD_shiftLeft, BitVec.getLsbD_ushiftRight]
  obtain rfl | hpos := Nat.eq_zero_or_pos k
  · simp
  · have hfrom : (k + 7) % 8 = k - 1 := by omega
    have habove : x.getLsbD (7 + k) = false := BitVec.getLsbD_of_ge _ _ (by omega)
    have hne : k ≠ 0 := by omega
    simp [hfrom, habove, hk, hne]

theorem rorByte_getLsbD {k : Nat} (hk : k < 8) : (rorByte x).getLsbD k = x.getLsbD ((k + 1) % 8) := by
  rw [rorByte, BitVec.getLsbD_or, BitVec.getLsbD_shiftLeft, BitVec.getLsbD_ushiftRight]
  obtain hlt | rfl : k < 7 ∨ k = 7 := by omega
  · have hfrom : (k + 1) % 8 = 1 + k := by omega
    simp [hfrom, hlt]
  · simp

theorem rolcByte_getLsbD_zero : (rolcByte x c).getLsbD 0 = c := by
  cases c <;> simp [rolcByte]

theorem rolcByte_getLsbD_of_pos {k : Nat} (hpos : 1 ≤ k) (hk : k < 8) : (rolcByte x c).getLsbD k = x.getLsbD (k - 1) := by
  have hne : k ≠ 0 := by omega
  have hfrom : k - 1 < 8 := by omega
  simp [rolcByte, hk, hne, hfrom]

theorem rorcByte_getLsbD_seven : (rorcByte x c).getLsbD 7 = c := by
  cases c <;> simp [rorcByte]

theorem rorcByte_getLsbD_of_lt {k : Nat} (hk : k < 7) : (rorcByte x c).getLsbD k = x.getLsbD (k + 1) := by
  simp [rorcByte, hk, Nat.add_comm]

end

/-! ## The rotates through CY -/

section
variable (s : State)

/-- CY is written after ACC; pc may as well move before it, as the statement has it. -/
theorem exec_rolc : exec .rolc s =
    .next (((s.setAcc (rolcByte s.acc (s.psw.getLsbD 7))).advance 1).putFlag .cy (s.acc.getLsbD 7)) := rfl

theorem exec_rorc : exec .rorc s =
    .next (((s.setAcc (rorcByte s.acc (s.psw.getLsbD 7))).advance 1).putFlag .cy (s.acc.getLsbD 0)) := rfl

end

/-! ## The obligations -/

/-- Settles O46: all nine forms are `logicOperand` of a function that works bit by bit. -/
theorem logicWritesAcc : Obligations.LogicWritesAcc :=
  ⟨aluEncodings_of_encode (fun _ => rfl) (fun _ => rfl) fun _ => rfl,
    aluEncodings_of_encode (fun _ => rfl) (fun _ => rfl) fun _ => rfl,
    aluEncodings_of_encode (fun _ => rfl) (fun _ => rfl) fun _ => rfl,
    aluForms_of_logicOperand (op := and) (fun _ _ _ => BitVec.getLsbD_and) (fun _ _ => rfl) (fun _ _ => rfl) fun _ _ => rfl,
    aluForms_of_logicOperand (op := or) (fun _ _ _ => BitVec.getLsbD_or) (fun _ _ => rfl) (fun _ _ => rfl) fun _ _ => rfl,
    aluForms_of_logicOperand (op := xor) (fun _ _ _ => BitVec.getLsbD_xor) (fun _ _ => rfl) (fun _ _ => rfl) fun _ _ => rfl⟩

/-- Settles O47: each rotate is one write of ACC; the two through CY then write CY with the bit that left the byte. -/
theorem rotatesMoveBits : Obligations.RotatesMoveBits := by
  refine ⟨encodes_iff.mpr rfl, encodes_iff.mpr rfl, encodes_iff.mpr rfl, encodes_iff.mpr rfl, fun s => ⟨?rol, ?ror, ?rolc, ?rorc⟩⟩
  case rol => exact ⟨_, rfl, accWritten_setAcc_advance s (rolByte s.acc) 1, fun _ => rolByte_getLsbD s.acc⟩
  case ror => exact ⟨_, rfl, accWritten_setAcc_advance s (rorByte s.acc) 1, fun _ => rorByte_getLsbD s.acc⟩
  case rolc =>
    exact ⟨_, _, exec_rolc s, accWritten_setAcc_advance s (rolcByte s.acc (s.psw.getLsbD 7)) 1, carryWritten_putFlag _ _,
      rolcByte_getLsbD_zero s.acc _, fun _ => rolcByte_getLsbD_of_pos s.acc _⟩
  case rorc =>
    exact ⟨_, _, exec_rorc s, accWritten_setAcc_advance s (rorcByte s.acc (s.psw.getLsbD 7)) 1, carryWritten_putFlag _ _,
      rorcByte_getLsbD_seven s.acc _, fun _ => rorcByte_getLsbD_of_lt s.acc _⟩

end Sys2Proof.Machine
end

section
/-! PROOF. The bit manipulation instructions (44_bit.md): the opcode byte of a d9 with a bit number (R102), and what each mask of R250-R252
does to the bits of a byte. -/

namespace Sys2Proof.Machine

/-! ## Encodings (R102) -/

theorem d8Bit_eq (a : DataAddr) : d8Bit a = (a >>> 8).setWidth 8 := by
  simpa only [opD, BitVec.zero_or] using or_d8Bit_eq_opD 0#8 a

/-- Formats B and BR: the bytes after the two of the d9 are the rest of the operands. -/
theorem encodes_d9b {i : Instr} {base : Byte} {a : DataAddr} {n : BitVec 3} {tail : List Byte}
    (h : encode i = (base ||| bitBits a n) :: d9Low a :: tail) : Encodes i (opB base a n :: a.setWidth 8 :: tail) := by
  rw [encodes_iff, h, bitBits, d8Bit_eq, ← BitVec.or_assoc, d9Low_eq, opB]

/-! ## One bit set, cleared or complemented -/

section
variable (v : Byte) (n : BitVec 3) (k : Nat)

theorem or_bitMask_getLsbD : (v ||| bitMask n).getLsbD k = if k = n.toNat then true else v.getLsbD k := by
  rw [BitVec.getLsbD_or, bitMask_getLsbD]
  by_cases hk : k = n.toNat <;> simp [hk]

/-- Above the byte the complement of the mask has no bit, and v has none either. -/
theorem and_not_bitMask_getLsbD : (v &&& ~~~bitMask n).getLsbD k = if k = n.toNat then false else v.getLsbD k := by
  rw [BitVec.getLsbD_and, BitVec.getLsbD_not, bitMask_getLsbD]
  by_cases hk : k = n.toNat
  · simp [hk]
  · have hwidth : v.getLsbD k = true → k < 8 := BitVec.lt_of_getLsbD
    simpa [hk] using hwidth

theorem xor_bitMask_getLsbD : (v ^^^ bitMask n).getLsbD k = if k = n.toNat then !v.getLsbD k else v.getLsbD k := by
  rw [BitVec.getLsbD_xor, bitMask_getLsbD]
  by_cases hk : k = n.toNat <;> simp [hk]

end

/-! ## The obligation -/

/-- Settles O48: each is one `modify` by a mask, which changes the one bit whatever it was, and then pc. -/
theorem bitInstructionsWriteOneBit : Obligations.BitInstructionsWriteOneBit := by
  refine ⟨fun _ _ => encodes_d9b rfl, fun _ _ => encodes_d9b rfl, fun _ _ => encodes_d9b rfl, fun a n s => ⟨?set1, ?clr1, ?not1⟩⟩
  case set1 =>
    exact ⟨_, _, rfl, dataWritten_modify_advance s a (fun v => v ||| bitMask n) 2, or_bitMask_getLsbD (s.dataByte a) n⟩
  case clr1 =>
    exact ⟨_, _, rfl, dataWritten_modify_advance s a (fun v => v &&& ~~~bitMask n) 2, and_not_bitMask_getLsbD (s.dataByte a) n⟩
  case not1 =>
    exact ⟨_, _, rfl, dataWritten_modify_advance s a (fun v => v ^^^ bitMask n) 2, xor_bitMask_getLsbD (s.dataByte a) n⟩

end Sys2Proof.Machine
end

section
/-! PROOF. The control transfer instructions (45_control.md): their bytes (R102), and each transfer as the read or write of a shared
operation with pc at the target or at the next instruction. -/

namespace Sys2Proof.Machine

/-! ## Encodings (R102) -/

/-- Format A12. -/
theorem encodes_a12 {i : Instr} {base : Byte} {a : BitVec 12} (h : encode i = [base ||| a12Bits a, a12Low a]) :
    Encodes i [opA12 base a, a.setWidth 8] := by
  rw [encodes_iff, h, or_a12Bits_eq_opA12, a12Low_eq]

/-- R102 writes the high byte of a 16-bit operand by a shift, the encoder by a field. -/
theorem high16_eq (a : BitVec 16) : high16 a = (a >>> 8).setWidth 8 := by
  apply BitVec.eq_of_toNat_eq
  rw [high16, BitVec.extractLsb'_toNat, BitVec.toNat_setWidth, BitVec.toNat_ushiftRight]

theorem low16_eq (a : BitVec 16) : low16 a = a.setWidth 8 := (BitVec.setWidth_eq_extractLsb' (by decide)).symm

/-- Format A16: the high byte first. -/
theorem encodes_a16 {i : Instr} {op : Byte} {a : CodeAddr} (h : encode i = [op, high16 a, low16 a]) :
    Encodes i [op, (a >>> 8).setWidth 8, a.setWidth 8] := by
  rw [encodes_iff, h, high16_eq, low16_eq]

/-- Format R16: the low byte first. -/
theorem encodes_r16 {i : Instr} {op : Byte} {r : BitVec 16} (h : encode i = [op, low16 r, high16 r]) :
    Encodes i [op, r.setWidth 8, (r >>> 8).setWidth 8] := by
  rw [encodes_iff, h, high16_eq, low16_eq]

/-! ## Branches -/

section
variable (s : State) {taken : Bool} {P : Prop} [Decidable P] (len : Nat) (r : Byte)

/-- A branch whose condition decides P writes pc alone (R109). -/
theorem branchIf_eq_ite (h : taken = true ↔ P) :
    s.branchIf taken len r = { s with pc := if P then shortTarget s.pc len r else s.next len } := by
  rw [branchIf_eq, State.next]
  simp only [h]

/-- A branch whose condition refutes P. -/
theorem branchIf_eq_ite_of_iff_not (h : taken = true ↔ ¬P) :
    s.branchIf taken len r = { s with pc := if P then s.next len else shortTarget s.pc len r } := by
  rw [branchIf_eq_ite s len r h, ite_not]

end

/-! ## Branches on a bit -/

section
variable (s : State) (a : DataAddr) (n : BitVec 3) (r : Byte)

theorem exec_bp : exec (.bp a n r) s = .next { s.afterRead a with
    pc := if (s.dataByte a).getLsbD n.toNat then shortTarget s.pc 3 r else s.next 3 } := by
  rw [exec, execBp, State.load, branchIf_eq_ite _ 3 r Iff.rfl, afterRead_pc, afterRead_next]

theorem exec_bn : exec (.bn a n r) s = .next { s.afterRead a with
    pc := if (s.dataByte a).getLsbD n.toNat then s.next 3 else shortTarget s.pc 3 r } := by
  rw [exec, execBn, State.load, branchIf_eq_ite_of_iff_not _ 3 r Bool.not_iff_not, afterRead_pc, afterRead_next]

variable {s a n}

/-- With the bit 0, BPC only reads (R267). -/
theorem exec_bpc_of_false (h : (s.dataByte a).getLsbD n.toNat = false) :
    exec (.bpc a n r) s = .next { s.afterRead a with pc := s.next 3 } := by
  rw [exec, execBpc, State.load, if_neg (ne_true_of_eq_false h), State.advance, afterRead_next, State.jump]

/-- With the bit 1, BPC stores the byte without it and then branches (R267). -/
theorem exec_bpc_of_true (h : (s.dataByte a).getLsbD n.toNat = true) :
    exec (.bpc a n r) s =
      .next { (s.afterRead a).store a (s.dataByte a &&& ~~~bitMask n) with pc := shortTarget s.pc 3 r } := by
  rw [exec, execBpc, State.load, if_pos h, relTarget_eq, afterRead_pc, State.jump]

end

/-! ## Decrement and branch -/

section
variable (s : State) (a : DataAddr) (r : Byte)

/-- The test of the decremented byte is a test of the byte read (R269). -/
theorem pred_bne_zero_iff (v : Byte) : (v - 1 != 0) = true ↔ v ≠ 1 := bne_iff_ne.trans sub_ne_zero

/-- The store leaves pc, so the branch starts from the pc before the instruction. -/
theorem dataWritten_decrementBranch (len : Nat) :
    DataWritten { s.afterRead a with pc := if s.dataByte a ≠ 1 then shortTarget s.pc len r else s.next len }
      (s.decrementBranch a len r) a (s.dataByte a - 1) := by
  have hbranch : s.decrementBranch a len r =
      { (s.afterRead a).store a (s.dataByte a - 1) with
        pc := if s.dataByte a ≠ 1 then shortTarget s.pc len r else s.next len } := by
    rw [State.decrementBranch, State.load, branchIf_eq_ite _ len r (pred_bne_zero_iff _), store_pc, store_next, afterRead_pc,
      afterRead_next]
  rw [hbranch]
  exact dataWritten_pc (dataWritten_store (s.afterRead a) a (s.dataByte a - 1)) _

end

/-! ## Compare and branch -/

section
variable (s : State) (o : Operand) (x y r : Byte)

@[simp] theorem afterOperand_pc : (s.afterOperand o).pc = s.pc := by cases o <;> simp [State.afterOperand]

theorem branchEqual_eq : s.branchEqual x y r =
    { s.putFlag .cy (compareCarry x y) with pc := if x = y then shortTarget s.pc 3 r else s.next 3 } :=
  branchIf_eq_ite (s.putFlag .cy (compareCarry x y)) 3 r beq_iff_eq

theorem branchNotEqual_eq : s.branchNotEqual x y r =
    { s.putFlag .cy (compareCarry x y) with pc := if x = y then s.next 3 else shortTarget s.pc 3 r } :=
  branchIf_eq_ite_of_iff_not (s.putFlag .cy (compareCarry x y)) 3 r bne_iff_ne

theorem carryWritten_branchEqual :
    CarryWritten { s.afterOperand o with pc := if x = y then shortTarget s.pc 3 r else s.next 3 }
      ((s.afterOperand o).branchEqual x y r) (decide (x.toNat < y.toNat)) := by
  rw [branchEqual_eq, afterOperand_pc, afterOperand_next]
  exact carryWritten_pc (carryWritten_putFlag (s.afterOperand o) (compareCarry x y)) _

theorem carryWritten_branchNotEqual :
    CarryWritten { s.afterOperand o with pc := if x = y then s.next 3 else shortTarget s.pc 3 r }
      ((s.afterOperand o).branchNotEqual x y r) (decide (x.toNat < y.toNat)) := by
  rw [branchNotEqual_eq, afterOperand_pc, afterOperand_next]
  exact carryWritten_pc (carryWritten_putFlag (s.afterOperand o) (compareCarry x y)) _

/-- The d9 forms compare ACC after the read, which leaves it. -/
theorem exec_beD9 (a : DataAddr) :
    exec (.beD9 a r) s = .next ((s.afterOperand (.d9 a)).branchEqual s.acc (s.dataByte a) r) := by
  rw [exec, execBeD9, State.load, afterRead_acc, State.afterOperand]

theorem exec_bneD9 (a : DataAddr) :
    exec (.bneD9 a r) s = .next ((s.afterOperand (.d9 a)).branchNotEqual s.acc (s.dataByte a) r) := by
  rw [exec, execBneD9, State.load, afterRead_acc, State.afterOperand]

end

/-! ## Calls and returns -/

theorem pcPushed_pushPc_jump (s : State) (ra target : CodeAddr) :
    PcPushed { s with pc := target } ((s.pushPc ra).jump target) ra := pcPushed_pc (pcPushed_pushPc s ra) target

/-- The popped address is two bytes of the stack as a number, the byte at SP the high one (R154). -/
theorem popPc_eq {α : Type} (s : State) (k : CodeAddr → State → α) :
    s.popPc k = k (BitVec.ofNat 16 ((s.ramByte 0 s.sp).toNat * 256 + (s.ramByte 0 (s.sp - 1)).toNat)) { s with sp := s.sp - 2 } := by
  have hsp : s.sp - 1 - 1 = s.sp - 2 := by bv_omega
  have haddr : s.ramByte 0 s.sp ++ s.ramByte 0 (s.sp - 1) =
      BitVec.ofNat 16 ((s.ramByte 0 s.sp).toNat * 256 + (s.ramByte 0 (s.sp - 1)).toNat) := by
    rw [← toNat_append_byte, BitVec.ofNat_toNat, BitVec.setWidth_eq]
  rw [← haddr, ← hsp]
  rfl

/-! ## The obligations -/

/-- Settles O49: each is one jump, to the target its formula gives as a number. -/
theorem jumpsWritePcAlone : Obligations.JumpsWritePcAlone :=
  ⟨fun _ => encodes_a12 rfl, fun _ => encodes_a16 rfl, fun _ => encodes_iff.mpr rfl, fun _ => encodes_r16 rfl, encodes_iff.mpr rfl,
    fun s => ⟨fun a => next_jump_eq (blockTarget_eq s a), fun _ => rfl, fun r => next_jump_eq (relTarget_eq s 2 r),
      fun r => next_jump_eq (relTarget16_eq s r), rfl⟩⟩

/-- Settles O50: the two branch on opposite tests of ACC. -/
theorem accBranches : Obligations.AccBranches :=
  ⟨fun _ => encodes_iff.mpr rfl, fun _ => encodes_iff.mpr rfl, fun r s =>
    ⟨congrArg _ (branchIf_eq_ite s 2 r beq_iff_eq), congrArg _ (branchIf_eq_ite s 2 r bne_iff_ne)⟩⟩

/-- Settles O51: BP and BN branch after the read on opposite values of the bit; BPC stores between the two when the bit was 1. -/
theorem bitBranches : Obligations.BitBranches := by
  refine ⟨fun _ _ _ => encodes_d9b rfl, fun _ _ _ => encodes_d9b rfl, fun _ _ _ => encodes_d9b rfl, fun a n r s =>
    ⟨exec_bp s a n r, exec_bn s a n r, exec_bpc_of_false r, fun h => ?bpc⟩⟩
  case bpc =>
    exact ⟨_, _, exec_bpc_of_true r h, dataWritten_pc (dataWritten_store (s.afterRead a) a _) (shortTarget s.pc 3 r),
      and_not_bitMask_getLsbD (s.dataByte a) n⟩

/-- Settles O52: both forms are `decrementBranch`, and differ in address and length alone. -/
theorem decrementBranches : Obligations.DecrementBranches := by
  simp only [Obligations.DecrementBranches, ofNat_pred_mod]
  exact ⟨fun _ _ => encodes_d9 rfl, fun _ _ => encodes_rj rfl,
    fun a r s => ⟨_, rfl, dataWritten_decrementBranch s a r 3⟩,
    fun j r s => ⟨_, rfl, dataWritten_decrementBranch s (s.indirect j) r 2⟩⟩

/-- Settles O53: the six forms are two branches at three operands; ACC is on the left but in the @Rj forms. -/
theorem compareBranches : Obligations.CompareBranches := by
  refine ⟨fun _ _ => encodes_iff.mpr rfl, fun _ _ => encodes_d9 rfl, fun _ _ _ => encodes_rj rfl, fun _ _ => encodes_iff.mpr rfl,
    fun _ _ => encodes_d9 rfl, fun _ _ _ => encodes_rj rfl, fun s v r a j => ⟨?beImm, ?beD9, ?beInd, ?bneImm, ?bneD9, ?bneInd⟩⟩
  case beImm => exact ⟨_, rfl, carryWritten_branchEqual s (.imm v) s.acc v r⟩
  case beD9 => exact ⟨_, exec_beD9 s r a, carryWritten_branchEqual s (.d9 a) s.acc (s.dataByte a) r⟩
  case beInd => exact ⟨_, rfl, carryWritten_branchEqual s (.ind j) (s.dataByte (s.indirect j)) v r⟩
  case bneImm => exact ⟨_, rfl, carryWritten_branchNotEqual s (.imm v) s.acc v r⟩
  case bneD9 => exact ⟨_, exec_bneD9 s r a, carryWritten_branchNotEqual s (.d9 a) s.acc (s.dataByte a) r⟩
  case bneInd => exact ⟨_, rfl, carryWritten_branchNotEqual s (.ind j) (s.dataByte (s.indirect j)) v r⟩

/-- Settles O54: the three calls push the address of the next instruction and jump, so they differ in length and target alone. -/
theorem callsPushAndJump : Obligations.CallsPushAndJump := by
  refine ⟨fun _ => encodes_a12 rfl, fun _ => encodes_a16 rfl, fun _ => encodes_r16 rfl, fun s => ⟨?call, ?callf, ?callr⟩⟩
  case call =>
    intro a
    rw [← blockTarget_eq]
    exact ⟨_, rfl, pcPushed_pushPc_jump s (s.next 2) (s.blockTarget 2 a)⟩
  case callf => exact fun a => ⟨_, rfl, pcPushed_pushPc_jump s (s.next 3) a⟩
  case callr =>
    intro r
    rw [← relTarget16_eq]
    exact ⟨_, rfl, pcPushed_pushPc_jump s (s.next 3) (s.relTarget16 3 r)⟩

/-- Settles O55: RET is the pop and then a jump to what was popped. -/
theorem retPopsPc : Obligations.RetPopsPc :=
  ⟨encodes_iff.mpr rfl, fun s => congrArg _ (popPc_eq s fun t s => s.jump t)⟩

end Sys2Proof.Machine
end

section
/-! PROOF. The system instructions (46_system.md): LDF and STF go by whether the Flash has the flash address (R79), and RETI is the pops of
R290, which give back what an entry pushed (R322, R324). -/

namespace Sys2Proof.Machine

/-! ## The Flash -/

section
variable {s : State}

theorem exec_ldf_of_lt (h : s.flashAddr.toNat < s.params.flashSize) :
    exec .ldf s = .next ((s.setAcc (Memory.read s.flash s.flashAddr.toNat)).advance 1) := by
  rw [exec, execLdf, State.flashByte, if_pos h]

theorem exec_ldf_of_ge (h : s.params.flashSize ≤ s.flashAddr.toNat) :
    exec .ldf s = .fault (.outOfRange .flash s.flashAddr.toNat) := by
  rw [exec, execLdf, State.flashByte, if_neg h.not_gt]

/-- With `FLASH_WRITE_MODEL = plain`, STF draws nothing. -/
theorem exec_stf_of_plain (hmodel : s.params.flashWriteModel = .plain) (h : s.flashAddr.toNat < s.params.flashSize) :
    exec .stf s = .next { s with flash := Memory.write s.flash s.flashAddr.toNat s.acc, pc := s.pc + 1 } := by
  obtain ⟨hbyte, hdraws⟩ := programmedByte_plain hmodel s.acc
  rw [exec_stf_eq, if_pos h, hbyte, hdraws, Nat.add_zero]

theorem exec_stf_of_ge (h : s.params.flashSize ≤ s.flashAddr.toNat) :
    exec .stf s = .fault (.outOfRange .flash s.flashAddr.toNat) := by
  rw [exec_stf_eq, if_neg h.not_gt]

end

/-! ## The return from an interrupt -/

/-- The popped address is the byte at SP above the one below it (R154). -/
theorem popPc_eq_append {α : Type} (s : State) (k : CodeAddr → State → α) :
    s.popPc k = k (s.ramByte 0 s.sp ++ s.ramByte 0 (s.sp - 1)) { s with sp := s.sp - 2 } := by
  have hsp : s.sp - 1 - 1 = s.sp - 2 := by bv_omega
  rw [← hsp]
  rfl

theorem exec_reti (s : State) : exec .reti s = .next s.leave := rfl

section
variable {s : State}

theorem leave_of_not_saved (h : s.params.entrySavesPsw = false) :
    s.leave = { s with
      pc := s.ramByte 0 s.sp ++ s.ramByte 0 (s.sp - 1)
      sp := s.sp - 2
      inService := s.inService.dropLast } := by
  have hpsw : s.popPswIfSaved = s := if_neg (ne_true_of_eq_false h)
  rw [State.leave, hpsw, popPc_eq_append]
  rfl

/-- The pc comes from below the PSW byte, and the pop of PSW writes it as any write of PSW does (R156). -/
theorem leave_of_saved (h : s.params.entrySavesPsw = true) :
    s.leave = { s with
      psw := s.writtenPsw (s.ramByte 0 s.sp)
      pc := s.ramByte 0 (s.sp - 1) ++ s.ramByte 0 (s.sp - 2)
      sp := s.sp - 3
      inService := s.inService.dropLast } := by
  have hpsw : s.popPswIfSaved = s.decSp.setPsw (s.ramByte 0 s.sp) := if_pos h
  have hsp2 : s.sp - 1 - 1 = s.sp - 2 := by bv_omega
  have hsp3 : s.sp - 1 - 2 = s.sp - 3 := by bv_omega
  rw [State.leave, hpsw, popPc_eq_append, ← hsp2, ← hsp3]
  rfl

end

/-! ## The return right after an entry -/

/-- A byte is its own update at a bit that it holds already. -/
theorem putBit_getLsbD_self (v : Byte) {n : Nat} (hn : n < 8) : putBit v n (v.getLsbD n) = v := by
  apply BitVec.eq_of_getLsbD_eq
  intro k _
  rw [putBit_getLsbD v n k _ hn]
  exact ite_eq_right_iff.mpr fun hk => hk ▸ rfl

/-- Writing PSW back as it stands changes nothing, in both P modes. -/
theorem writtenPsw_self (s : State) : s.writtenPsw s.psw = s.psw := by
  unfold State.writtenPsw
  split
  · rfl
  · exact putBit_getLsbD_self s.psw (by decide)

section
variable (s : State) (src : Source)

/-- An entry raises SP by the bytes it pushes (R322). -/
theorem enter_sp : (s.enter src).sp = s.sp + if s.params.entrySavesPsw then 3 else 2 := by
  have hpushes : (s.enter src).sp = ((s.clearLatch src).pushPc s.pc).pushPswIfSaved.sp := rfl
  rw [hpushes, State.pushPswIfSaved, pushPc_params, clearLatch_params]
  split
  · rw [push_sp, pushPc_sp, BitVec.add_assoc]
    rfl
  · exact pushPc_sp ..

/-- The bytes an entry pushes, the last one first (R322). -/
theorem enter_ramByte (k : Nat) (y : Byte) : (s.enter src).ramByte k y =
    if s.params.entrySavesPsw = true ∧ k = 0 ∧ y = s.sp + 3 then s.psw
    else if k = 0 ∧ y = s.sp + 2 then s.pc.extractLsb' 8 8
    else if k = 0 ∧ y = s.sp + 1 then s.pc.extractLsb' 0 8
    else s.ramByte k y := by
  have hpushes : (s.enter src).ramByte k y = ((s.clearLatch src).pushPc s.pc).pushPswIfSaved.ramByte k y := rfl
  have hpc : ((s.clearLatch src).pushPc s.pc).ramByte k y =
      if k = 0 ∧ y = s.sp + 2 then s.pc.extractLsb' 8 8
      else if k = 0 ∧ y = s.sp + 1 then s.pc.extractLsb' 0 8
      else s.ramByte k y := (pcPushed_pushPc (s.clearLatch src) s.pc).1 k y
  have hsp : ((s.clearLatch src).pushPc s.pc).sp + 1 = s.sp + 3 := by
    rw [pushPc_sp, BitVec.add_assoc]
    rfl
  rw [hpushes, State.pushPswIfSaved, pushPc_params, clearLatch_params, ← hpc]
  cases s.params.entrySavesPsw with
  | false => simp only [Bool.false_eq_true, false_and, if_false]
  | true => simp only [if_true, true_and, ramByte_push, hsp, pushPc_psw, clearLatch_psw]

/-- The return address stands at SP + 1 and SP + 2 of before, under the PSW where it is saved. -/
theorem enter_returnAddress :
    (s.enter src).ramByte 0 (s.sp + 2) ++ (s.enter src).ramByte 0 (s.sp + 1) = s.pc := by
  have hhi_psw : s.sp + 2 ≠ s.sp + 3 := by bv_omega
  have hlo_psw : s.sp + 1 ≠ s.sp + 3 := by bv_omega
  have hlo_hi : s.sp + 1 ≠ s.sp + 2 := by bv_omega
  simp only [enter_ramByte, hhi_psw, hlo_psw, hlo_hi, and_false, true_and, if_true, if_false]
  exact BitVec.extractLsb'_append_extractLsb'

/-- The pops read what was pushed; of what the return leaves alone, an entry writes the RAM and its latch only. -/
theorem leave_enter : (s.enter src).leave = { s with ram := (s.enter src).ram, latches := s.latches.clear src } := by
  have hsp := enter_sp s src
  have hpc := enter_returnAddress s src
  cases hsaved : s.params.entrySavesPsw with
  | false =>
    have hback : s.sp + 2 - 2 = s.sp := by bv_omega
    have hlo : s.sp + 2 - 1 = s.sp + 1 := by bv_omega
    rw [hsaved, if_neg Bool.false_ne_true] at hsp
    rw [leave_of_not_saved ((congrArg _ (enter_params s src)).trans hsaved), hsp, hback, hlo, hpc]
    simp
  | true =>
    have hback : s.sp + 3 - 3 = s.sp := by bv_omega
    have hhi : s.sp + 3 - 1 = s.sp + 2 := by bv_omega
    have hlo : s.sp + 3 - 2 = s.sp + 1 := by bv_omega
    have hpsw : (s.enter src).writtenPsw ((s.enter src).ramByte 0 (s.sp + 3)) = s.psw := by
      have hbyte : (s.enter src).ramByte 0 (s.sp + 3) = (s.enter src).psw := by simp [enter_ramByte, hsaved]
      rw [hbyte, writtenPsw_self, enter_psw]
    rw [hsaved, if_pos rfl] at hsp
    rw [leave_of_saved ((congrArg _ (enter_params s src)).trans hsaved), hsp, hback, hhi, hlo, hpc, hpsw]
    simp

end

/-! ## The obligations -/

/-- Settles O28: with `P_MODE = parity` the pop of PSW leaves P, as every write of PSW does. -/
theorem retiReturns : Obligations.RetiReturns := by
  refine ⟨encodes_iff.mpr rfl, fun s => ⟨fun hsaved => ?_, fun hsaved => ?_⟩⟩
  · rw [exec_reti, leave_of_not_saved hsaved]
  · rw [exec_reti, leave_of_saved hsaved]
    refine ⟨_, rfl, fun k hk => ?_, ?_, rfl⟩
    · cases hmode : s.params.pMode with
      | stored => rw [State.writtenPsw, hmode]
      | parity => exact setPsw_getLsbD_of_parity hmode (s.ramByte 0 s.sp) hk
    · cases hmode : s.params.pMode with
      | stored => rw [State.writtenPsw, hmode]
      | parity => exact setPsw_getLsbD_zero hmode (s.ramByte 0 s.sp)

/-- Settles O29: RETI pops what the entry pushed, and the source it takes off is the one the entry put on. -/
theorem retiUndoesEntry : Obligations.RetiUndoesEntry := fun s src => by rw [exec_reti, leave_enter]

/-- Settles O57: the two cases are whether the Flash has the flash address. -/
theorem ldfReadsFlash : Obligations.LdfReadsFlash := by
  refine ⟨encodes_iff.mpr rfl, ?_⟩
  rintro s fa rfl
  rw [← flashAddr_toNat]
  exact ⟨fun hlt => ⟨_, exec_ldf_of_lt hlt, accWritten_setAcc_advance s (Memory.read s.flash s.flashAddr.toNat) 1⟩,
    exec_ldf_of_ge⟩

/-- Settles O58: a read after the write gives ACC at the flash address alone; the fault does not ask for the model. -/
theorem stfWritesFlash : Obligations.StfWritesFlash := by
  refine ⟨encodes_iff.mpr rfl, ?_⟩
  rintro s fa rfl
  rw [← flashAddr_toNat]
  refine ⟨fun hmodel hlt => ⟨_, exec_stf_of_plain hmodel hlt, fun k => ?_, rfl⟩, exec_stf_of_ge⟩
  exact (read_write ..).trans (if_congr eq_comm rfl rfl)

end Sys2Proof.Machine
end

section
/-! PROOF. Two invariants of a step: the mirrors of Timer 1 hold its counters (R345), and the sources in service are nested by rank
(R323). -/

namespace Sys2Proof.Machine

/-! ## The mirrors of Timer 1 -/

/-- A half that has not overflowed counts at most 255, and every reload is a byte (R340). -/
theorem tick_t1_lo_le (s : State) : s.tick.t1.lo ≤ 255 := by
  rw [tick_t1_lo]
  split
  · exact Nat.le_of_lt_succ s.t1.lr.isLt
  · split
    · exact Nat.le_of_lt_succ (s.rawByte s.params.cascadeLowReload).isLt
    · next hlow => exact Nat.le_of_not_lt hlow

theorem tick_t1_hi_le (s : State) : s.tick.t1.hi ≤ 255 := by
  rw [tick_t1_hi]
  split
  · exact Nat.le_of_lt_succ s.t1.hr.isLt
  · next hhigh => exact Nat.le_of_not_lt hhigh

/-- A count that a byte holds is the byte's number. -/
theorem eq_toNat_ofNat_of_le {n : Nat} (h : n ≤ 255) : n = (BitVec.ofNat 8 n).toNat :=
  (Nat.mod_eq_of_lt (Nat.lt_succ_of_le h)).symm

/-- A tick writes the mirrors from the counters (step 6 of R340), so it makes the invariant hold whatever was before. -/
theorem timerMirrored_tick (s : State) : s.tick.TimerMirrored :=
  ⟨eq_toNat_ofNat_of_le (tick_t1_lo_le s), eq_toNat_ofNat_of_le (tick_t1_hi_le s)⟩

theorem le_of_timerMirrored {s : State} (h : s.TimerMirrored) : s.t1.lo ≤ 255 ∧ s.t1.hi ≤ 255 := by
  obtain ⟨hlo, hhi⟩ := h
  exact ⟨hlo ▸ Nat.le_of_lt_succ s.t1.l.isLt, hhi ▸ Nat.le_of_lt_succ s.t1.h.isLt⟩

/-- At the split addresses a write goes to the reload latch and not to the mirror (R48). -/
theorem timerMirrored_setSfr {s : State} (r : Sfr) (v : Byte) (h : s.TimerMirrored) : (s.setSfr r v).TimerMirrored := by
  cases r <;> exact h

/-- Only a tick writes a counter or a mirror. -/
theorem timerMirrored_stepKept : StepKept State.TimerMirrored where
  sfr _ r v h := timerMirrored_setSfr r v h
  ram _ _ _ _ _ h := h
  jump _ _ h := h
  io _ _ _ h := h
  flash _ _ _ _ h := h
  popService _ h := h
  boundary _ h := h
  begin _ h := h
  tick s _ := timerMirrored_tick s
  clearLatch _ _ h := h
  pushService _ _ _ h := h

/-- Settles O15: a tick mirrors counters that a byte holds, and nothing else of a step writes either. -/
theorem stepKeepsTimerMirrored : Obligations.StepKeepsTimerMirrored :=
  ⟨fun _ => le_of_timerMirrored, fun s _ => timerMirrored_tick s, fun _ _ => timerMirrored_stepKept.step_next⟩

/-! ## The in-service stack -/

theorem nestedByRank_of_inService_eq {s t : State} (heq : t.inService = s.inService) (h : s.NestedByRank) : t.NestedByRank := by
  unfold State.NestedByRank
  rwa [heq]

/-- In a nested stack the top ranks highest, so an eligible source ranks strictly higher than every source in service (R323). -/
theorem rank_lt_of_eligible {s : State} {src below : Source} (h : s.NestedByRank) (he : s.eligible src = true)
    (hbelow : below ∈ s.inService) : src.rank < below.rank := by
  obtain hnil | ⟨top, htop, hrank⟩ := (eligible_iff s src).mp he
  · simp [hnil] at hbelow
  · obtain ⟨rest, hstack⟩ := List.getLast?_eq_some_iff.mp htop
    rw [State.NestedByRank, hstack, List.pairwise_append] at h
    obtain ⟨-, -, habove⟩ := h
    rw [hstack, List.mem_append, List.mem_singleton] at hbelow
    obtain hrest | rfl := hbelow
    · exact hrank.trans (habove below hrest top (List.mem_singleton_self top))
    · exact hrank

theorem nestedByRank_pushService {s : State} {src : Source} (he : s.eligible src = true) (h : s.NestedByRank) :
    (s.pushService src).NestedByRank := by
  refine List.pairwise_append.mpr ⟨h, List.pairwise_singleton _ _, fun below hbelow above habove => ?_⟩
  obtain rfl := List.mem_singleton.mp habove
  exact rank_lt_of_eligible h he hbelow

theorem nestedByRank_popService {s : State} (h : s.NestedByRank) : s.popService.NestedByRank :=
  h.sublist (List.dropLast_sublist _)

/-- Only entry and RETI write the in-service stack (R38). -/
theorem nestedByRank_stepKept : StepKept State.NestedByRank where
  sfr s r v h := nestedByRank_of_inService_eq (setSfr_inService s r v) h
  ram _ _ _ _ _ h := h
  jump _ _ h := h
  io _ _ _ h := h
  flash _ _ _ _ h := h
  popService _ h := nestedByRank_popService h
  boundary _ h := h
  begin _ h := h
  tick _ h := h
  clearLatch _ _ h := h
  pushService _ _ he h := nestedByRank_pushService he h

/-- Settles O16: the poll puts an eligible source on the stack, RETI takes the top off, and nothing else of a step writes it. -/
theorem stepKeepsNestedByRank : Obligations.StepKeepsNestedByRank :=
  fun _ _ => nestedByRank_stepKept.step_next

end Sys2Proof.Machine
end

section
/-! PROOF. The interrupt controller (R310, R312, R320-R323): the latch port, the environment at a boundary, the entry of a source and the
poll. -/

namespace Sys2Proof.Machine

/-! ## The latch port -/

/-- Of two writes of one latch the last one counts (R310). -/
theorem latches_put_put (l : Latches) (src : Source) (v w : Bool) : (l.put src v).put src w = l.put src w := by
  cases src <;> rfl

section
variable (s : State) (src other : Source)

theorem getLatch_setLatch : (s.setLatch src).getLatch other = if other = src then true else s.getLatch other :=
  latches_get_put ..

theorem getLatch_clearLatch : (s.clearLatch src).getLatch other = if other = src then false else s.getLatch other :=
  latches_get_put ..

theorem setLatch_setLatch : (s.setLatch src).setLatch src = s.setLatch src :=
  congrArg (fun l => { s with latches := l }) (latches_put_put ..)

theorem clearLatch_clearLatch : (s.clearLatch src).clearLatch src = s.clearLatch src :=
  congrArg (fun l => { s with latches := l }) (latches_put_put ..)

theorem clearLatch_setLatch : (s.setLatch src).clearLatch src = s.clearLatch src :=
  congrArg (fun l => { s with latches := l }) (latches_put_put ..)

end

/-- Settles O24: both writes of the port put one latch, and of two puts of a latch the last one counts. -/
theorem latchPort : Obligations.LatchPort := fun s src other =>
  ⟨getLatch_setLatch s src other, getLatch_clearLatch s src other, setLatch_setLatch s src, clearLatch_clearLatch s src,
    by rw [setLatch_setLatch, clearLatch_setLatch], rfl, rfl⟩

/-- Settles O25: a latch is set by the boundary exactly when its source is in the list the environment has for it. -/
theorem environmentOnlySetsLatches : Obligations.EnvironmentOnlySetsLatches := fun s =>
  ⟨latches_get_setAll s.latches (s.env.headD []), rfl⟩

/-! ## Entry -/

/-- The rank of a source is its index in the scan order (R321). -/
theorem scanOrder_getElem?_rank (src : Source) : Source.scanOrder[src.rank]? = some src := by cases src <;> rfl

/-- The vectors are eight bytes apart from 0x0003 on, and RESET has its own (R321). -/
theorem vector_toNat (src : Source) : src.vector.toNat = if src.rank = 0 then 0 else 3 + 8 * (src.rank - 1) := by
  cases src <;> rfl

section
variable (s : State) (src : Source)

theorem getLatch_enter (other : Source) : (s.enter src).getLatch other = if other = src then false else s.getLatch other := by
  rw [State.getLatch, enter_latches]
  exact latches_get_put ..

/-- The bytes an entry pushes, the first one first: the places are three different ones, so their order does not matter (R322). -/
theorem enter_ramByte_upward (k : Nat) (y : Byte) : (s.enter src).ramByte k y =
    if k = 0 ∧ y = s.sp + 1 then s.pc.extractLsb' 0 8
    else if k = 0 ∧ y = s.sp + 2 then s.pc.extractLsb' 8 8
    else if k = 0 ∧ y = s.sp + 3 ∧ s.params.entrySavesPsw = true then s.psw
    else s.ramByte k y := by
  rw [enter_ramByte]
  by_cases hlo : y = s.sp + 1
  · simp [hlo]
  · by_cases hhi : y = s.sp + 2
    · simp [hhi]
    · simp only [hlo, hhi, and_false, if_false]
      exact if_congr (by rw [and_comm, and_assoc]) rfl rfl

/-- t has of s everything but SP and the RAM. -/
def StackOnly (s t : State) : Prop := t = { s with sp := t.sp, ram := t.ram }

theorem stackOnly_pushPswIfSaved : StackOnly s s.pushPswIfSaved := by
  unfold StackOnly State.pushPswIfSaved
  split <;> rfl

theorem stackOnly_pushPc (t : CodeAddr) : StackOnly s (s.pushPc t) := rfl

theorem StackOnly.trans {s t u : State} (hst : StackOnly s t) (htu : StackOnly t u) : StackOnly s u :=
  Eq.trans htu (congrArg (fun x : State => { x with sp := u.sp, ram := u.ram }) hst)

/-- An entry writes pc, SP, the in-service stack, the latches and the RAM, and nothing else (R322). -/
theorem enter_frame : s.enter src = { s with
    pc := (s.enter src).pc
    inService := (s.enter src).inService
    latches := (s.enter src).latches
    sp := (s.enter src).sp
    ram := (s.enter src).ram } := by
  have hpushes := (stackOnly_pushPc (s.clearLatch src) s.pc).trans (stackOnly_pushPswIfSaved _)
  rw [enter_pc, enter_inService, enter_latches]
  unfold State.enter
  generalize ((s.clearLatch src).pushPc s.pc).pushPswIfSaved = t at hpushes
  exact congrArg (fun x => (x.pushService src).jump src.vector) hpushes

end

/-- Settles O26: an entry is the clear of one latch, the pushes, one source more in service and a jump, each of which is read off. -/
theorem entryPushesAndVectors : Obligations.EntryPushesAndVectors := fun s src =>
  ⟨scanOrder_getElem?_rank src,
    (congrArg BitVec.toNat (enter_pc s src)).trans (vector_toNat src),
    enter_inService s src,
    getLatch_enter s src,
    enter_sp s src,
    enter_ramByte_upward s src,
    enter_frame s src⟩

/-! ## The poll -/

theorem taken_of_masked {s : State} (h : s.ie.getLsbD 7 = false) : s.taken = none := by
  rw [State.taken, if_neg (ne_true_of_eq_false h)]

theorem taken_of_none_mayEnter {s : State} (h : ∀ src, ¬ s.MayEnter src) : s.taken = none := by
  refine Option.eq_none_iff_forall_ne_some.mpr fun src htaken => ?_
  obtain ⟨-, hmay, -⟩ := (taken_eq_some_iff s src).mp htaken
  exact h src hmay

/-- Settles O27: the source taken is none in the first two cases, and the least in rank that the poll may enter in the third. -/
theorem pollEntersFirstEligible : Obligations.PollEntersFirstEligible := fun s =>
  ⟨fun hmasked => processInterrupts_of_none (taken_of_masked hmasked),
    fun _ hnone => processInterrupts_of_none (taken_of_none_mayEnter hnone),
    fun hie src hmay hleast => processInterrupts_of_some ((taken_eq_some_iff s src).mpr ⟨hie, hmay, hleast⟩)⟩

end Sys2Proof.Machine
end

section
/-! PROOF. The faults of a call and of a step (R158, R301, R302), performHLE (R373, R374) and the words of the spec's decoding table
(V-EN). -/

namespace Sys2Proof.Machine

/-! ## The faults of an instruction -/

/-- An access that an instruction makes to an address its region does not have: LDC's to the code region, LDF's and STF's to the Flash
(R79, R301). -/
inductive OutOfRange (s : State) : Instr → Fault → Prop where
  | ldc (h : s.codeSize s.extOld ≤ s.tableAddr.toNat) : OutOfRange s .ldc (.outOfRange (.code s.extOld) s.tableAddr.toNat)
  | ldf (h : s.params.flashSize ≤ s.flashAddr.toNat) : OutOfRange s .ldf (.outOfRange .flash s.flashAddr.toNat)
  | stf (h : s.params.flashSize ≤ s.flashAddr.toNat) : OutOfRange s .stf (.outOfRange .flash s.flashAddr.toNat)

/-- An instruction faults with such an access alone. -/
theorem exec_eq_fault_iff (i : Instr) (s : State) (f : Fault) : exec i s = .fault f ↔ OutOfRange s i f := by
  constructor
  · intro h
    cases i
    case ldc =>
      obtain hlt | hge := Nat.lt_or_ge s.tableAddr.toNat (s.codeSize s.extOld)
      · cases (exec_ldc_of_lt hlt).symm.trans h
      · cases (exec_ldc_of_ge hge).symm.trans h
        exact .ldc hge
    case ldf =>
      obtain hlt | hge := Nat.lt_or_ge s.flashAddr.toNat s.params.flashSize
      · cases (exec_ldf_of_lt hlt).symm.trans h
      · cases (exec_ldf_of_ge hge).symm.trans h
        exact .ldf hge
    case stf =>
      obtain hlt | hge := Nat.lt_or_ge s.flashAddr.toNat s.params.flashSize
      · rw [exec_stf_eq, if_pos hlt] at h
        cases h
      · cases (exec_stf_of_ge hge).symm.trans h
        exact .stf hge
    case div =>
      simp only [exec, execDiv] at h
      split at h <;> cases h
    all_goals cases h
  · rintro (hge | hge | hge)
    · exact exec_ldc_of_ge hge
    · exact exec_ldf_of_ge hge
    · exact exec_stf_of_ge hge

theorem OutOfRange.instr {s : State} {i : Instr} {f : Fault} (h : OutOfRange s i f) : i = .ldc ∨ i = .ldf ∨ i = .stf := by
  cases h
  · exact .inl rfl
  · exact .inr (.inl rfl)
  · exact .inr (.inr rfl)

/-- The boundary sets latches, which no address and no region depends on (R312). -/
theorem outOfRange_begin_boundary_iff (s : State) (i : Instr) (f : Fault) :
    OutOfRange s.boundary.begin i f ↔ OutOfRange s.begin i f := by
  constructor <;> rintro (h | h | h)
  exacts [.ldc h, .ldf h, .stf h, .ldc h, .ldf h, .stf h]

/-! ## The faults of a call and of a step -/

/-- A call from s faults with f: at its fetch, or at what the fetched instruction accesses. -/
def State.CallFaults (s : State) (f : Fault) : Prop :=
  s.begin.fetch = .fault f ∨ ∃ g : Fetched, s.begin.fetch = .next g ∧ exec g.instr s.begin = .fault f

/-- A call that faults leaves the state its instruction began in (R158). -/
theorem processInstruction_eq_fault_iff (s t : State) (debug : Bool) (f : Fault) :
    s.processInstruction debug = (.fault f, t) ↔ t = s.begin ∧ s.CallFaults f := by
  constructor
  · intro h
    unfold State.processInstruction at h
    split at h
    · next g hfetch =>
      split at h
      · cases h
      · next hexec =>
        cases h
        exact ⟨rfl, .inr ⟨g, hfetch, hexec⟩⟩
      · cases h
    · next hfetch =>
      cases h
      exact ⟨rfl, .inl hfetch⟩
    · cases h
  · rintro ⟨rfl, hfetch | ⟨g, hfetch, hexec⟩⟩
    · exact processInstruction_of_fetch_fault hfetch debug
    · rw [State.processInstruction, hfetch]
      simp only [hexec]

theorem callFaults_boundary_iff (s : State) (f : Fault) : s.boundary.CallFaults f ↔ s.CallFaults f := by
  simp only [State.CallFaults, fetch_begin_boundary, exec_eq_fault_iff, outOfRange_begin_boundary_iff]

/-- A turn that fetches faults as its call does (R302, R376). -/
theorem runTurn_eq_fault_iff (s : State) (f : Fault) : s.runTurn = .fault f ↔ s.boundary.CallFaults f := by
  constructor
  · intro h
    unfold State.runTurn at h
    split at h
    · cases h
    · next t hcall =>
      cases h
      exact ((processInstruction_eq_fault_iff _ t _ _).mp hcall).2
    · cases h
  · intro h
    rw [State.runTurn, (processInstruction_eq_fault_iff _ _ _ _).mpr ⟨rfl, h⟩]

/-- Settles O8: a fault of a call is one of its fetch or of LDC, LDF or STF, and the latches of the boundary take no part in it. -/
theorem faultLeavesNoPartialResult : Obligations.FaultLeavesNoPartialResult := by
  refine ⟨fun s t debug f h => ?_, fun s f hrun => ?_⟩
  · obtain ⟨rfl, hfaults⟩ := (processInstruction_eq_fault_iff s t debug f).mp h
    refine ⟨rfl, hfaults.imp_right ?_⟩
    rintro ⟨⟨op, i⟩, hfetch, hexec⟩
    exact ⟨op, i, hfetch, ((exec_eq_fault_iff i _ f).mp hexec).instr, hexec⟩
  · simp only [step_of_running hrun, runTurn_eq_fault_iff, callFaults_boundary_iff, processInstruction_eq_fault_iff,
      exists_eq_left]

/-! ## performHLE -/

/-- An entry address counts modulo 2^16 (R373). -/
theorem performHle_eq (s : State) (e : Nat) :
    s.performHle e = { s.resetBlock with pc := BitVec.ofNat 16 (e % 65536) } := by
  have hpc : BitVec.ofNat 16 e = BitVec.ofNat 16 (e % 65536) := BitVec.eq_of_toNat_eq (by simp)
  rw [State.performHle, hpc]

/-- A machine as construction makes it is at its reset values already (R370, R374). -/
theorem resetBlock_resetWith (p : Params) (ram rom flash : Memory) :
    (State.resetWith p ram rom flash).resetBlock = State.resetWith p ram rom flash := rfl

/-- Settles O23: performHLE is the reset of the block with the given pc, and construction leaves nothing to reset. -/
theorem hleDiffersOnlyInPc : Obligations.HleDiffersOnlyInPc := by
  refine ⟨fun p draw ram rom flash ic hle s e hs => ?_, fun s e => ?_⟩
  · rw [construct_eq] at hs
    cases hs
    rw [performHle_eq, resetBlock_resetWith]
  · rw [performHle_eq]
    exact ⟨rfl, rfl, rfl, rfl, fun r => by cases r <;> rfl, rfl, rfl, fun src => by cases src <;> rfl, rfl, rfl, rfl⟩

/-! ## The words of the spec -/

/-- Settles O4: each word is what the encoder writes for its instruction, and the decoder inverts the encoder. -/
theorem specWordsDecode : Obligations.SpecWordsDecode :=
  ⟨decodeInvertsEncode (.ldD9 0x11B) [], decodeInvertsEncode (.ldInd 3) [], decodeInvertsEncode (.movD9 0x7F 0x106) [],
    decodeInvertsEncode (.movInd 0x99 3) [], decodeInvertsEncode (.jmp 0x000) [], decodeInvertsEncode (.jmp 0xFFF) [],
    decodeInvertsEncode (.set1 0x108 7) [], decodeInvertsEncode (.clr1 0x118 1) [], decodeInvertsEncode (.bpc 0x118 1 5) [],
    decodeInvertsEncode (.callr 0x0005) [], decodeInvertsEncode (.callf 0x1234) [], decodeInvertsEncode .ldc [],
    decodeInvertsEncode .ldf [], decodeInvertsEncode .stf []⟩

end Sys2Proof.Machine
end
